-- ==== Sys2Proof/Word.lean ====
section
/-! DEFINITION. The two bit-vector widths the spec treats as bits: the byte (00_scope.md R9) and the
16-bit selection word (30_encoding.md R95). -/

namespace Sys2Proof

/-- A byte: an unsigned integer in 0..255, eight bits (00_scope.md R9). -/
abbrev Byte := BitVec 8

/-- The selection word `SW` of one step of the block (30_encoding.md R95). -/
abbrev SelWord := BitVec 16

end Sys2Proof
end

