-- ==== Sys2Proof/Config.lean ====
section
/-! DEFINITION. The parameters of 00_scope.md R8. The constants are definitions; the two parameters
marked OPEN there are the fields of `Params`, which a state carries (assumption log 1); the one value
the spec leaves free, the `woken` hint (60_exceptions.md R248), is an opaque constant. -/

namespace Sys2Proof

namespace Config

/-- `P_START`: the value of each of the two start-marker bytes (00_scope.md R8). -/
def startByte : Byte := 0xAA#8

/-- `P_MOD`: the modulus of the checksum (00_scope.md R8). -/
def modulus : Nat := 255

/-- `P_MAX_DATA`: the largest legal size field and the capacity of a packet's data (00_scope.md R8). -/
def maxData : Nat := 30

/-- `P_OVERHEAD`: frame length minus data size (00_scope.md R8). -/
def overhead : Nat := 5

/-- `P_MAX_FRAME` = `P_MAX_DATA + P_OVERHEAD`: the longest frame (00_scope.md R8). -/
def maxFrame : Nat := maxData + overhead

/-- `P_PKTQ_CAP`: the capacity in packets of the packet queue (00_scope.md R8). -/
def pktqCap : Nat := 2

/-- `P_T_IDLE` in milliseconds. No rule evaluates it: whether it has elapsed is the environment's
choice (60_exceptions.md R245; 92_eei_decisions.md D35). -/
def idleMs : Nat := 1000

/-- The free value of the `woken` hint, one boolean for each give: "a free value, not a function of the
block's state" (60_exceptions.md R248). It has no body, so nothing can be proved of it. -/
opaque wokenHint : Nat → Bool

end Config

/-- The two parameters of 00_scope.md R8 that are marked OPEN and that a model takes as arguments. -/
structure Params where
  /-- `P_RAWQ_CAP`: capacity in bytes of the raw-byte queue, at least 1. -/
  rawqCap : Nat
  /-- `P_TXBUF_CAP`: capacity in bytes of the send buffer, at least 35. -/
  txBufCap : Nat
  deriving DecidableEq, Repr

/-- The bounds 00_scope.md R8 puts on the two OPEN parameters. -/
def Params.ok (p : Params) : Bool :=
  decide (1 ≤ p.rawqCap) && decide (Config.maxFrame ≤ p.txBufCap)

/-- The defaults of 00_scope.md R8: 1024 bytes and 64 bytes. -/
def Params.default : Params := { rawqCap := 1024, txBufCap := 64 }

end Sys2Proof
end

