-- ==== Sys2Proof/Syntax.lean ====
section
/-! DEFINITION. The syntax: packets (10_state.md R21), the operations, one constructor for every row of
spec/opcode_table.json (30_encoding.md R97 and R98, 40_fifo.md, 41_semaphore.md), the selection of one
step (30_encoding.md R95), the agents and their contexts (00_scope.md R14, 60_exceptions.md R251) and
the events of an event script (30_encoding.md R104). -/

namespace Sys2Proof

/-- A packet value `(header, size, data)` (10_state.md R21). A raw triple: `Packet.wf` in
WellFormed.lean is its invariant. Data bytes past `size` do not exist (92_eei_decisions.md D22). -/
structure Packet where
  header : Byte
  size : Byte
  data : List Byte
  deriving DecidableEq, Repr

/-- The packet whose every operand byte is zero: header 0, size 0, no data. -/
def Packet.zero : Packet := { header := 0, size := 0, data := [] }

/-- The operations. The first 21 are the operation rows of the selection table, then the six `PRIM`
rows (the queue and semaphore primitives the operations are written with, never selected on their own,
30_encoding.md R98), then the three `RESERVED` rows. A byte operand `c` is the field `SW[7:0]`. -/
inductive Instr where
  /-- RX.FIRST.HIT, 42_rx_framing.md R151. -/
  | rxFirstHit
  /-- RX.FIRST.MISS, 42_rx_framing.md R151. -/
  | rxFirstMiss (c : Byte)
  /-- RX.SECOND.HIT, 42_rx_framing.md R152. -/
  | rxSecondHit
  /-- RX.SECOND.MISS, 42_rx_framing.md R152. -/
  | rxSecondMiss (c : Byte)
  /-- RX.HEADER, 42_rx_framing.md R153. -/
  | rxHeader (c : Byte)
  /-- RX.SIZE.ZERO, 42_rx_framing.md R154. -/
  | rxSizeZero
  /-- RX.SIZE.DATA, 42_rx_framing.md R154. -/
  | rxSizeData (c : Byte)
  /-- RX.SIZE.REJECT, 42_rx_framing.md R154. -/
  | rxSizeReject (c : Byte)
  /-- RX.DATA, 42_rx_framing.md R155. -/
  | rxData (c : Byte)
  /-- RX.CSUM, 42_rx_framing.md R156. -/
  | rxCsum (c : Byte)
  /-- RX.TIMEOUT, 42_rx_framing.md R157. -/
  | rxTimeout
  /-- IRQ.RXNE.PUSH, 44_interrupt_handlers.md R203. -/
  | irqRxnePush (c : Byte)
  /-- IRQ.RXNE.DROP, 44_interrupt_handlers.md R203. -/
  | irqRxneDrop (c : Byte)
  /-- IRQ.TXE.EMIT, 44_interrupt_handlers.md R201. -/
  | irqTxeEmit
  /-- IRQ.TXE.DONE, 44_interrupt_handlers.md R202. -/
  | irqTxeDone
  /-- TX.SEND, 43_tx_engine.md R181; the packet is an operand that is not in `SW`. -/
  | txSend (p : Packet)
  /-- TX.WAIT, 43_tx_engine.md R182. -/
  | txWait
  /-- LINK.ENABLE, 45_link_facade.md R220. -/
  | linkEnable (flag : Bool)
  /-- LINK.SEND, 45_link_facade.md R221; the packet is an operand that is not in `SW`. -/
  | linkSend (p : Packet)
  /-- LINK.RECV, 45_link_facade.md R222. -/
  | linkRecv
  /-- PER.SHIFT, 60_exceptions.md R241. -/
  | perShift
  /-- Q.PUSH_ISR on `rawq`, 40_fifo.md R121. -/
  | qPushIsr (v : Byte)
  /-- Q.PUSH_NB on `pktq`, 40_fifo.md R122. -/
  | qPushNb (p : Packet)
  /-- Q.POP_T on `rawq`, 40_fifo.md R123; `t` is the row's `SW[12]`: false = a byte was popped,
  true = timed out. -/
  | qPopT (t : Bool)
  /-- Q.POP_INF on `pktq`, 40_fifo.md R124. -/
  | qPopInf
  /-- SEM.GIVE_ISR, 41_semaphore.md R141. -/
  | semGiveIsr
  /-- SEM.TAKE, 41_semaphore.md R142. -/
  | semTake
  /-- RESERVED.STATE67: `ev = 0` with a state code 6 or 7, 30_encoding.md R98. -/
  | reservedState67
  /-- RESERVED.EV10_11: `ev` in 10..11, 30_encoding.md R98. -/
  | reservedEv10to11
  /-- RESERVED.EV12_15: `ev` in 12..15, 30_encoding.md R98. -/
  | reservedEv12to15
  deriving DecidableEq, Repr

/-- The mnemonic of the row of spec/opcode_table.json an instruction stands for. -/
def Instr.mnemonic : Instr → String
  | .rxFirstHit => "RX.FIRST.HIT"
  | .rxFirstMiss _ => "RX.FIRST.MISS"
  | .rxSecondHit => "RX.SECOND.HIT"
  | .rxSecondMiss _ => "RX.SECOND.MISS"
  | .rxHeader _ => "RX.HEADER"
  | .rxSizeZero => "RX.SIZE.ZERO"
  | .rxSizeData _ => "RX.SIZE.DATA"
  | .rxSizeReject _ => "RX.SIZE.REJECT"
  | .rxData _ => "RX.DATA"
  | .rxCsum _ => "RX.CSUM"
  | .rxTimeout => "RX.TIMEOUT"
  | .irqRxnePush _ => "IRQ.RXNE.PUSH"
  | .irqRxneDrop _ => "IRQ.RXNE.DROP"
  | .irqTxeEmit => "IRQ.TXE.EMIT"
  | .irqTxeDone => "IRQ.TXE.DONE"
  | .txSend _ => "TX.SEND"
  | .txWait => "TX.WAIT"
  | .linkEnable _ => "LINK.ENABLE"
  | .linkSend _ => "LINK.SEND"
  | .linkRecv => "LINK.RECV"
  | .perShift => "PER.SHIFT"
  | .qPushIsr _ => "Q.PUSH_ISR"
  | .qPushNb _ => "Q.PUSH_NB"
  | .qPopT _ => "Q.POP_T"
  | .qPopInf => "Q.POP_INF"
  | .semGiveIsr => "SEM.GIVE_ISR"
  | .semTake => "SEM.TAKE"
  | .reservedState67 => "RESERVED.STATE67"
  | .reservedEv10to11 => "RESERVED.EV10_11"
  | .reservedEv12to15 => "RESERVED.EV12_15"

/-- The agents of the block that perform operations (00_scope.md R14). `TIMER` and `DMA` perform none. -/
inductive Agent where
  | irq | rxeng | sender | receiver | host | periph
  deriving DecidableEq, Repr

/-- The two contexts that take the place of privilege modes, and the environment (00_scope.md R14,
60_exceptions.md R251). -/
inductive Context where
  | interrupt | task | environment
  deriving DecidableEq, Repr

/-- The context of each agent (00_scope.md R14). -/
def Agent.context : Agent → Context
  | .irq => .interrupt
  | .rxeng | .sender | .receiver | .host => .task
  | .periph => .environment

/-- The agent that performs an operation (the `agent` column of 30_encoding.md R96 and of
spec/opcode_table.json); no agent produces a reserved row (30_encoding.md R98). -/
def Instr.agent : Instr → Option Agent
  | .rxFirstHit | .rxFirstMiss _ | .rxSecondHit | .rxSecondMiss _ | .rxHeader _ | .rxSizeZero
  | .rxSizeData _ | .rxSizeReject _ | .rxData _ | .rxCsum _ | .rxTimeout => some .rxeng
  | .irqRxnePush _ | .irqRxneDrop _ | .irqTxeEmit | .irqTxeDone => some .irq
  | .txSend _ | .txWait | .linkSend _ => some .sender
  | .linkEnable _ => some .host
  | .linkRecv => some .receiver
  | .perShift => some .periph
  | .qPushIsr _ | .semGiveIsr => some .irq
  | .qPushNb _ | .qPopT _ => some .rxeng
  | .qPopInf => some .receiver
  | .semTake => some .sender
  | .reservedState67 | .reservedEv10to11 | .reservedEv12to15 => none

/-- The rows of format `PRIM`: not events of their own, so no selection word decodes to one
(30_encoding.md R98). -/
def Instr.isPrim : Instr → Bool
  | .qPushIsr _ | .qPushNb _ | .qPopT _ | .qPopInf | .semGiveIsr | .semTake => true
  | .rxFirstHit | .rxFirstMiss _ | .rxSecondHit | .rxSecondMiss _ | .rxHeader _ | .rxSizeZero
  | .rxSizeData _ | .rxSizeReject _ | .rxData _ | .rxCsum _ | .rxTimeout | .irqRxnePush _
  | .irqRxneDrop _ | .irqTxeEmit | .irqTxeDone | .txSend _ | .txWait | .linkEnable _ | .linkSend _
  | .linkRecv | .perShift | .reservedState67 | .reservedEv10to11 | .reservedEv12to15 => false

/-- What selects one step: the selection word and, for TX.SEND and LINK.SEND, the packet operand, which
is not in the word (30_encoding.md R95 and R96). Every other operation ignores the packet. -/
structure Selection where
  word : SelWord
  packet : Packet
  deriving DecidableEq, Repr

/-- One line of an event script (30_encoding.md R104): the environment's and the scheduler's choice of
what happens next (60_exceptions.md R252). -/
inductive Event where
  /-- `rx <byte>`: a received byte arrives (60_exceptions.md R242). -/
  | rx (b : Byte)
  /-- `step`: the receive engine is scheduled for a byte (42_rx_framing.md R150). -/
  | step
  /-- `timeout`: `P_T_IDLE` elapsed (60_exceptions.md R245). -/
  | timeout
  /-- `txe`: the handler serves a transmit-empty request (60_exceptions.md R236). -/
  | txe
  /-- `send`: TX.SEND of a packet. -/
  | send (p : Packet)
  /-- `wait`: the sender is scheduled inside `send`, TX.WAIT. -/
  | wait
  /-- `enable`: LINK.ENABLE. -/
  | enable (flag : Bool)
  /-- LINK.SEND, event kind 7: the upper layer calls `sendPacket`. -/
  | linkSend (p : Packet)
  /-- `recv`: the receiver is scheduled inside `receive`, LINK.RECV. -/
  | recv
  /-- `shift`: the peripheral moves its data register to the line, PER.SHIFT. -/
  | shift
  /-- A selection word put forward as it stands: for the reserved words, which no agent produces and
  which a model must refuse (30_encoding.md R98). The model's own line (assumption log 5). -/
  | present (w : SelWord)
  deriving DecidableEq, Repr

end Sys2Proof
end

