-- ==== Sys2Proof/WellFormed.lean ====
section
/-! DEFINITION. Well-formedness: the packet invariant (10_state.md R21) and the constraint column of the
selection table (30_encoding.md R97). -/

namespace Sys2Proof

/-- The packet invariant: "size always matches the number of valid data bytes; size never exceeds the
maximum payload the frame format allows" (10_state.md R21; precondition P2 of 43_tx_engine.md R180). -/
def Packet.wf (p : Packet) : Bool :=
  decide (p.size.toNat ≤ Config.maxData) && decide (p.data.length = p.size.toNat)

/-- An instruction meets the constraint column of its row (30_encoding.md R97), and its packet operand
meets the packet invariant (43_tx_engine.md R180 P2). -/
def Instr.wf : Instr → Bool
  | .rxFirstMiss c | .rxSecondMiss c => decide (c ≠ Config.startByte)
  | .rxSizeData c => decide (1 ≤ c.toNat) && decide (c.toNat ≤ Config.maxData)
  | .rxSizeReject c => decide (Config.maxData < c.toNat)
  | .txSend p | .linkSend p | .qPushNb p => p.wf
  | .rxFirstHit | .rxSecondHit | .rxHeader _ | .rxSizeZero | .rxData _ | .rxCsum _ | .rxTimeout
  | .irqRxnePush _ | .irqRxneDrop _ | .irqTxeEmit | .irqTxeDone | .txWait | .linkEnable _ | .linkRecv
  | .perShift | .qPushIsr _ | .qPopT _ | .qPopInf | .semGiveIsr | .semTake
  | .reservedState67 | .reservedEv10to11 | .reservedEv12to15 => true

end Sys2Proof
end

