-- ==== Sys2Proof/Machine/State.lean ====
section
/-! DEFINITION. The state of the block (10_state.md R20) as plain data, the reasons a step can stop, and
the state after reset (10_state.md R44). The last group of fields is the model's own: the environment's
input and the observations. -/

namespace Sys2Proof.Machine

/-- A byte-addressed memory space: written cells only, addresses strictly rising. An unlisted address
holds no value (20_memory.md R62, 10_state.md R44). -/
abbrev Memory := List Host.Cell

/-- The memory spaces that are indexed (20_memory.md R61, R62). -/
inductive Space where
  /-- `TXBUF`, the send buffer `tx_buf`. -/
  | txbuf
  /-- `RXDATA`, the receive engine's data buffer `rx_data`. -/
  | rxdata
  deriving DecidableEq, Repr

/-- `rx_state`, the control state of the receive engine (10_state.md R22). -/
inductive RxState where
  | awaitFirstStart
  | awaitSecondStart
  | awaitHeader
  | awaitSize
  | awaitData
  | awaitChecksum
  deriving DecidableEq, Repr

/-- `tx_phase`, the control point of the task inside `send` (10_state.md R33). -/
inductive TxPhase where
  | idle
  | waiting
  deriving DecidableEq, Repr

/-- The silent events EV1 to EV6 with the information 60_exceptions.md R230 gives each. -/
inductive Note where
  /-- EV1, second start marker missing: the byte. -/
  | ev1 (b : Byte)
  /-- EV2, oversized claimed length: the byte. -/
  | ev2 (b : Byte)
  /-- EV3, checksum mismatch: the byte and `rx_csum`. -/
  | ev3 (b acc : Byte)
  /-- EV4, idle timeout mid-frame: the state left. -/
  | ev4 (left : RxState)
  /-- EV5, raw-byte queue full: the byte lost. -/
  | ev5 (b : Byte)
  /-- EV6, packet queue full: the packet lost. -/
  | ev6 (p : Packet)
  deriving DecidableEq, Repr

/-- What the block hands outward on the interfaces of 10_state.md R46: results of facade calls, the
`woken` hint, and, for a primitive run on its own, the item it popped. -/
inductive Output where
  /-- `enable(flag)` returned success (45_link_facade.md R220). -/
  | enableReturned
  /-- `send(p)` returned success (43_tx_engine.md R182). -/
  | sendReturned
  /-- `receive()` returned this packet (45_link_facade.md R222). -/
  | received (p : Packet)
  /-- The hint of SEM.GIVE_ISR (60_exceptions.md R248). -/
  | woken (hint : Bool)
  /-- The result of a Q.POP_T run on its own (40_fifo.md R123). -/
  | popped (r : Option Byte)
  /-- The result of a Q.POP_INF run on its own (40_fifo.md R124). -/
  | poppedPacket (p : Packet)
  deriving DecidableEq, Repr

/-- The state of the block. Registers that the spec counts with are held as `Nat`, since its arithmetic
is over the integers (00_scope.md R9); their ranges are an invariant (Safety.lean). -/
structure State where
  /-- `P_RAWQ_CAP` and `P_TXBUF_CAP` (00_scope.md R8): fixed for the machine, no operation writes them. -/
  params : Params
  /-- `rx_state` (10_state.md R22). -/
  rxState : RxState
  /-- `rx_header` (10_state.md R23). -/
  rxHeader : Byte
  /-- `rx_size`, 0..30 (10_state.md R24). -/
  rxSize : Byte
  /-- `rx_data[0..29]` (10_state.md R25). -/
  rxData : Memory
  /-- `rx_index`, 0..30 (10_state.md R26). -/
  rxIndex : Nat
  /-- `rx_csum`, 0..254 (10_state.md R27). -/
  rxCsum : Byte
  /-- `tx_buf[0..P_TXBUF_CAP-1]` (10_state.md R29). -/
  txBuf : Memory
  /-- `tx_index`, 0..35 (10_state.md R30). -/
  txIndex : Nat
  /-- `tx_len`, 5..35 (10_state.md R31). -/
  txLen : Nat
  /-- `tx_cpos`, 4..34 (10_state.md R32). -/
  txCpos : Nat
  /-- `tx_phase` (10_state.md R33). -/
  txPhase : TxPhase
  /-- `txe_ie`, the transmit-empty interrupt enable (10_state.md R34). -/
  txeIe : Bool
  /-- `rawq`, oldest first (10_state.md R36). -/
  rawq : List Byte
  /-- `pktq`, oldest first (10_state.md R37). -/
  pktq : List Packet
  /-- `sem`, the completion semaphore: true = available (10_state.md R38). -/
  sem : Bool
  /-- `tdr`, the peripheral's transmit data register (10_state.md R39). -/
  tdr : Byte
  /-- `tdr_full` (10_state.md R39). -/
  tdrFull : Bool
  /-- `wire_tx`, oldest first (10_state.md R40). -/
  wireTx : List Byte
  /-- The ghost event history of 60_exceptions.md R230, oldest first. No rule reads it. -/
  notes : List Note
  /-- The model's own: what the block handed outward, oldest first. No rule reads it. -/
  outs : List Output
  /-- The model's own: how many free values have been drawn (assumption log 13). -/
  freeCount : Nat
  /-- The model's own: the events the environment has still to present (assumption log 5). -/
  script : List Event
  deriving DecidableEq, Repr

/-- Why a step stops with a fault. -/
inductive Fault where
  /-- A read of a memory cell that nothing has written since reset: such a cell has no value
  (20_memory.md R62, 93_implementation_defined.md U7). Raised by `memRead`. Safe. -/
  | unwrittenRead (sp : Space) (addr : Nat)
  deriving DecidableEq, Repr

/-- Why a step is refused: "the operation was invoked outside its stated precondition" (00_scope.md
R11), so the spec gives no state after it. Every one is safe: nothing can be proved of what follows. -/
inductive Refusal where
  /-- An instruction without a meaning yet; raised by exec's arms only. Safe. -/
  | notModelled (mnemonic : String)
  /-- A reserved selection word: "a model must refuse it rather than give it a meaning" (30_encoding.md
  R98; U17). Raised by the reserved rows. Safe. -/
  | reservedSelection (mnemonic : String)
  /-- The operation is not the one the selection table selects in this state (30_encoding.md R97, R98):
  its state code, byte operand or guard bit is not the state's. Raised by the operations whose selection
  depends on the state. Safe. -/
  | notSelected (mnemonic : String)
  /-- IRQ.TXE while there is no transmit-empty request (60_exceptions.md R236). Raised by the two
  IRQ.TXE operations. Safe. -/
  | noTxeRequest
  /-- A timeout while a byte is queued (40_fifo.md R123). Raised by `popT`. Safe. -/
  | timeoutWithByteQueued
  /-- TX.WAIT with no send in flight (43_tx_engine.md R182 requires `tx_phase = Waiting`). Raised by
  TX.WAIT. Safe. -/
  | waitOutsideSend
  /-- A send while one is in flight (43_tx_engine.md R180 P1; U1). Raised by `txSendOp`. Safe. -/
  | sendInFlight
  /-- A send of a packet that breaks its invariant (30_encoding.md R102, 43_tx_engine.md R180 P2; U2).
  Raised by `txSendOp`. Safe. -/
  | packetIllFormed
  /-- A write of `tdr` while it is full (60_exceptions.md R241; U5). Raised by `tdrWrite`. Safe. -/
  | tdrWriteWhileFull
  /-- PER.SHIFT with an empty data register (60_exceptions.md R241 requires `tdr_full = 1`). Raised by
  PER.SHIFT. Safe. -/
  | nothingToShift
  /-- An access outside a memory space: "a model must `refuse` it" (20_memory.md R62; U6). Raised by
  `memRead` and `memWrite`. Safe. -/
  | outsideSpace (sp : Space) (addr : Nat)
  deriving DecidableEq, Repr

/-- The state right after reset, for any values of the two OPEN parameters (10_state.md R44). Where R44
says "unspecified" of a register, the model names 0 (assumption log 2); memory cells hold no value. -/
def State.resetWith (p : Params) : State where
  params := p
  rxState := .awaitFirstStart
  rxHeader := 0
  rxSize := 0
  rxData := []
  rxIndex := 0
  rxCsum := 0
  txBuf := []
  txIndex := 0
  txLen := 0
  txCpos := 0
  txPhase := .idle
  txeIe := false
  rawq := []
  pktq := []
  sem := false
  tdr := 0
  tdrFull := false
  wireTx := []
  notes := []
  outs := []
  freeCount := 0
  script := []

/-- The machine right after reset, with the default parameters of 00_scope.md R8. -/
def State.reset : State := State.resetWith Params.default

end Sys2Proof.Machine
end

