-- ==== Sys2Proof/Machine/Flags.lean ====
section
/-! DEFINITION. The conditions operations test: functions of the state, none stored (10_state.md R41),
the transmit-empty request (60_exceptions.md R236), and the numeric code of the receive state
(10_state.md R22). -/

namespace Sys2Proof.Machine

/-- `rawq_empty = (len(rawq) = 0)`. -/
def rawqEmpty (s : State) : Bool := s.rawq.isEmpty

/-- `rawq_full = (len(rawq) = P_RAWQ_CAP)`; a queue never holds more (40_fifo.md R120), and one that
did would be full too. -/
def rawqFull (s : State) : Bool := decide (s.params.rawqCap ≤ s.rawq.length)

/-- `pktq_empty = (len(pktq) = 0)`. -/
def pktqEmpty (s : State) : Bool := s.pktq.isEmpty

/-- `pktq_full = (len(pktq) = 2)`; a queue never holds more (40_fifo.md R120), and one that did would
be full too. -/
def pktqFull (s : State) : Bool := decide (Config.pktqCap ≤ s.pktq.length)

/-- `sem_avail = (sem = 1)`. -/
def semAvail (s : State) : Bool := s.sem

/-- `txe = (tdr_full = 0)`, the transmit-empty condition. -/
def txe (s : State) : Bool := !s.tdrFull

/-- `tx_in_frame = (tx_index < tx_len)`. -/
def txInFrame (s : State) : Bool := decide (s.txIndex < s.txLen)

/-- `txe_req = (txe_ie = 1 and tdr_full = 0)`, the transmit-empty request (60_exceptions.md R236). -/
def txeReq (s : State) : Bool := s.txeIe && txe s

/-- The three-bit code of a receive state (10_state.md R22). -/
def rxStateCode : RxState → BitVec 3
  | .awaitFirstStart => 0
  | .awaitSecondStart => 1
  | .awaitHeader => 2
  | .awaitSize => 3
  | .awaitData => 4
  | .awaitChecksum => 5

end Sys2Proof.Machine
end

