-- ==== Sys2Proof/Machine/Operands.lean ====
section
/-! DEFINITION. Operand assembly (30_encoding.md R99): the checksum arithmetic (00_scope.md R12,
30_encoding.md R100), the frame (30_encoding.md R93), the layout of the send buffer (20_memory.md R66). -/

namespace Sys2Proof.Machine

/-- A sum reduced modulo 255, as the byte that holds it (30_encoding.md R100: the sum is formed exactly,
then reduced; it is not the wrap of a byte). -/
def mod255 (n : Nat) : Byte := BitVec.ofNat 8 (n % Config.modulus)

/-- `fold(a, c) = (a + c) mod 255` (00_scope.md R12). -/
def fold (a c : Byte) : Byte := mod255 (a.toNat + c.toNat)

/-- The seed of the accumulator, `header mod 255` (30_encoding.md R99 ii). -/
def seed (h : Byte) : Byte := mod255 h.toNat

/-- The exact sum of a byte sequence. -/
def byteSum : List Byte → Nat
  | [] => 0
  | b :: bs => b.toNat + byteSum bs

/-- `csum(h, n, d) = (h + n + d[0] + ... + d[n-1]) mod 255` (00_scope.md R12). -/
def csum (h n : Byte) (d : List Byte) : Byte := mod255 (byteSum (h :: n :: d))

/-- The size byte of a data sequence. -/
def sizeByte (d : List Byte) : Byte := BitVec.ofNat 8 d.length

/-- `frame(h, d) = [0xAA, 0xAA, h, n] ++ d ++ [csum(h, n, d)]` (30_encoding.md R93). -/
def frame (h : Byte) (d : List Byte) : List Byte :=
  [Config.startByte, Config.startByte, h, sizeByte d] ++ d ++ [csum h (sizeByte d) d]

/-- The bytes TX.SEND writes from index 0: markers, header, size and data (20_memory.md R66). -/
def sendImage (p : Packet) : List Byte :=
  [Config.startByte, Config.startByte, p.header, p.size] ++ p.data

/-- `tx_len = size + 5` (30_encoding.md R99 iii). -/
def txLenOf (size : Byte) : Nat := size.toNat + Config.overhead

/-- `tx_cpos = tx_len - 1` (30_encoding.md R99 iv). -/
def txCposOf (len : Nat) : Nat := len - 1

/-- The test of the look-ahead accumulation, `1 < new index <= tx_len - 2` (44_interrupt_handlers.md
R201), over the integers. -/
def accumulates (newIndex len : Nat) : Bool := decide (1 < newIndex) && decide (newIndex + 2 ≤ len)

end Sys2Proof.Machine
end

