-- ==== Sys2Proof/Machine/Ops.lean ====
section
/-! DEFINITION. The named operations every meaning is written with: outcomes in sequence, the memory
primitives (20_memory.md R62), the queue primitives (40_fifo.md), the semaphore primitives
(41_semaphore.md), the peripheral's data register (10_state.md R39), handler entry and return
(60_exceptions.md R247 and R249) and the receive engine's pop (42_rx_framing.md R150). -/

namespace Sys2Proof.Machine

/-- The outcome of an operation: what it yields, or why it stops. -/
abbrev Out (α : Type) := Host.Outcome α Fault Refusal

/-- One operation after another: a stop ends the whole. -/
def andThen {α β : Type} (o : Out α) (k : α → Out β) : Out β :=
  match o with
  | .next a => k a
  | .fault r => .fault r
  | .refused r => .refused r

/-! ## Memory -/

/-- The value of a cell; none if nothing has written it. -/
def memGet : Memory → Nat → Option Byte
  | [], _ => none
  | (b, w) :: m, a => if b = a then some w else memGet m a

/-- Writes a cell, keeping addresses strictly rising. -/
def memPut : Memory → Nat → Byte → Memory
  | [], a, v => [(a, v)]
  | (b, w) :: m, a, v =>
    if a < b then (a, v) :: (b, w) :: m
    else if a = b then (a, v) :: m
    else (b, w) :: memPut m a v

/-- Every listed address is at least `lo` and the addresses strictly rise. -/
def risingFrom (lo : Nat) : Memory → Bool
  | [] => true
  | (b, _) :: m => decide (lo ≤ b) && risingFrom (b + 1) m

/-- The canonical form: addresses strictly rising. An unlisted address reads as no value, so no listed
cell can equal it. -/
def Memory.wf (m : Memory) : Bool := risingFrom 0 m

/-- How many cells a space has (20_memory.md R61). -/
def spaceSize (s : State) : Space → Nat
  | .txbuf => s.params.txBufCap
  | .rxdata => Config.maxData

/-- The cells of a space. -/
def cells (s : State) : Space → Memory
  | .txbuf => s.txBuf
  | .rxdata => s.rxData

/-- The state with the cells of a space replaced. -/
def setCells (s : State) (sp : Space) (m : Memory) : State :=
  match sp with
  | .txbuf => { s with txBuf := m }
  | .rxdata => { s with rxData := m }

/-- `MemRead(space, addr, 1)` (20_memory.md R62): refused outside the space; a cell that nothing has
written holds no value. -/
def memRead (sp : Space) (addr : Nat) (s : State) : Out Byte :=
  if addr < spaceSize s sp then
    match memGet (cells s sp) addr with
    | some v => .next v
    | none => .fault (.unwrittenRead sp addr)
  else .refused (.outsideSpace sp addr)

/-- `MemWrite(space, addr, 1, v)` (20_memory.md R62): refused outside the space, never wrapped. -/
def memWrite (sp : Space) (addr : Nat) (v : Byte) (s : State) : Out State :=
  if addr < spaceSize s sp then .next (setCells s sp (memPut (cells s sp) addr v))
  else .refused (.outsideSpace sp addr)

/-- MemRead of `n` consecutive cells. -/
def memReadList (sp : Space) (addr : Nat) (n : Nat) (s : State) : Out (List Byte) :=
  match n with
  | 0 => .next []
  | n + 1 =>
    andThen (memRead sp addr s) fun v =>
      andThen (memReadList sp (addr + 1) n s) fun vs => .next (v :: vs)

/-- MemWrite of consecutive cells, in rising order. -/
def memWriteList (sp : Space) (addr : Nat) (vs : List Byte) (s : State) : Out State :=
  match vs with
  | [] => .next s
  | v :: vs => andThen (memWrite sp addr v s) fun s' => memWriteList sp (addr + 1) vs s'

/-! ## Records -/

/-- `note EVn`: appends to the ghost history (00_scope.md R11, 60_exceptions.md R230). -/
def note (n : Note) (s : State) : State := { s with notes := s.notes ++ [n] }

/-- Hands a value outward on an interface of 10_state.md R46. -/
def output (o : Output) (s : State) : State := { s with outs := s.outs ++ [o] }

/-! ## The queues (40_fifo.md) -/

/-- Q.PUSH_ISR(rawq, v) (40_fifo.md R121): appended, or dropped with EV5 when full. It never waits. -/
def pushIsr (v : Byte) (s : State) : State :=
  if rawqFull s then note (.ev5 v) s else { s with rawq := s.rawq ++ [v] }

/-- Q.PUSH_NB(pktq, p) (40_fifo.md R122): appended, or dropped with EV6 when full. It never waits. -/
def pushNb (p : Packet) (s : State) : State :=
  if pktqFull s then note (.ev6 p) s else { s with pktq := s.pktq ++ [p] }

/-- Q.POP_T(rawq, P_T_IDLE) (40_fifo.md R123), `timedOut` being the environment's choice. With a byte
queued the pop returns it, and no timeout can occur; with none it times out or, if the time has not
passed, holds, and a hold changes no state (92_eei_decisions.md D32). -/
def popT (timedOut : Bool) (s : State) (k : Option Byte → State → Out State) : Out State :=
  match s.rawq, timedOut with
  | v :: q, false => k (some v) { s with rawq := q }
  | _ :: _, true => .refused .timeoutWithByteQueued
  | [], true => k none s
  | [], false => .next s

/-- Q.POP_INF(pktq) (40_fifo.md R124): the oldest packet, or a hold, which changes no state. -/
def popInf (s : State) (k : Packet → State → Out State) : Out State :=
  match s.pktq with
  | p :: q => k p { s with pktq := q }
  | [] => .next s

/-! ## The completion semaphore (41_semaphore.md) -/

/-- SEM.GIVE_ISR (41_semaphore.md R141): `sem <- 1` and the hint, a free value (60_exceptions.md R248).
A give on an available semaphore leaves it available. -/
def semGive (s : State) : State :=
  { s with
    sem := true
    outs := s.outs ++ [.woken (Config.wokenHint s.freeCount)]
    freeCount := s.freeCount + 1 }

/-- SEM.TAKE (41_semaphore.md R142): takes an available semaphore, or holds, which changes no state. -/
def semTake (s : State) (k : State → Out State) : Out State :=
  if semAvail s then k { s with sem := false } else .next s

/-! ## The peripheral's transmit data register -/

/-- `tdr_write(b)` (10_state.md R39): refused while the register is full (60_exceptions.md R241). -/
def tdrWrite (b : Byte) (s : State) : Out State :=
  if s.tdrFull then .refused .tdrWriteWhileFull else .next { s with tdr := b, tdrFull := true }

/-! ## Handler entry and return -/

/-- Entry of the interrupt handler: "It saves no state of the block and changes none by itself"
(60_exceptions.md R247). -/
def handlerEntry (s : State) : State := s

/-- Return from the handler: "nothing is restored and nothing is re-enabled" (60_exceptions.md R249). -/
def handlerReturn (s : State) : State := s

/-- An operation of the IRQ agent: entry, the operation, return. -/
def inHandler (op : State → Out State) (s : State) : Out State :=
  andThen (op (handlerEntry s)) fun t => .next (handlerReturn t)

/-! ## The receive engine's step -/

/-- One step of the receive engine on a byte (42_rx_framing.md R150): the pop, then the operation the
receive state and the byte select, as one atomic step. `want`, `c` and `ok` are the row's state code,
byte operand and constraint; an operation that the table does not select here is refused. With no byte
queued the engine is held. -/
def rxByte (mnemonic : String) (want : RxState) (c : Byte) (ok : Bool) (k : State → Out State)
    (s : State) : Out State :=
  popT false s fun r s' =>
    if r = some c ∧ s.rxState = want ∧ ok = true then k s'
    else .refused (.notSelected mnemonic)

/-- Resynchronise: `rx_state <- AwaitFirstStart` (00_scope.md R16) and nothing else. -/
def resync (s : State) : State := { s with rxState := .awaitFirstStart }

/-- The packet in the receive registers (42_rx_framing.md R156): `rx_data[0..rx_size-1]` copied out. -/
def assemblePacket (s : State) : Out Packet :=
  andThen (memReadList .rxdata 0 s.rxSize.toNat s) fun d =>
    .next { header := s.rxHeader, size := s.rxSize, data := d }

/-! ## The two halves of a send -/

/-- The body of TX.SEND (43_tx_engine.md R181), its assignments in the order written. Refused where a
precondition of 43_tx_engine.md R180 that the state can show does not hold. -/
def txSendOp (p : Packet) (s : State) : Out State :=
  if s.txPhase ≠ .idle then .refused .sendInFlight
  else if p.wf = false then .refused .packetIllFormed
  else
    andThen (memWriteList .txbuf 0 (sendImage p) s) fun s1 =>
    let s2 := { s1 with txLen := txLenOf p.size }
    let s3 := { s2 with txCpos := txCposOf s2.txLen }
    andThen (memWrite .txbuf s3.txCpos 0 s3) fun s4 =>
    andThen (memRead .txbuf 0 s4) fun first =>
    andThen (tdrWrite first s4) fun s5 =>
      .next { s5 with txIndex := 1, txeIe := true, txPhase := .waiting }

end Sys2Proof.Machine
end

