-- ==== Sys2Proof/Machine/Bridge.lean ====
section
/-! DEFINITION. The six primitive rows of spec/opcode_table.json run on their own (40_fifo.md,
41_semaphore.md). No selection word decodes to one (30_encoding.md R98): the operations use them through
Machine/Ops.lean. What a pop returns is handed outward (assumption log 11). -/

namespace Sys2Proof.Machine

/-- Q.PUSH_ISR on `rawq` (40_fifo.md R121). -/
def execQPushIsr (v : Byte) (s : State) : Out State := .next (pushIsr v s)

/-- Q.PUSH_NB on `pktq` (40_fifo.md R122). -/
def execQPushNb (p : Packet) (s : State) : Out State := .next (pushNb p s)

/-- Q.POP_T on `rawq` (40_fifo.md R123). -/
def execQPopT (t : Bool) (s : State) : Out State :=
  popT t s fun r s1 => .next (output (.popped r) s1)

/-- Q.POP_INF on `pktq` (40_fifo.md R124). -/
def execQPopInf (s : State) : Out State :=
  popInf s fun p s1 => .next (output (.poppedPacket p) s1)

/-- SEM.GIVE_ISR (41_semaphore.md R141). -/
def execSemGiveIsr (s : State) : Out State := .next (semGive s)

/-- SEM.TAKE (41_semaphore.md R142). -/
def execSemTake (s : State) : Out State := semTake s fun s1 => .next s1

end Sys2Proof.Machine
end

