-- ==== Sys2Proof/Machine/Facade.lean ====
section
/-! DEFINITION. The Link Facade (45_link_facade.md). -/

namespace Sys2Proof.Machine

/-- LINK.ENABLE (45_link_facade.md R220): returns success for either flag and writes no state of the
block. -/
def execLinkEnable (_flag : Bool) (s : State) : Out State := .next (output .enableReturned s)

/-- LINK.SEND (45_link_facade.md R221): the first of its two atomic steps, TX.SEND. The second is
TX.WAIT, which `tx_phase = Waiting` records as still to come (assumption log 12). -/
def execLinkSend (p : Packet) (s : State) : Out State := txSendOp p s

/-- LINK.RECV (45_link_facade.md R222): returns the oldest packet, or is held. -/
def execLinkRecv (s : State) : Out State := popInf s fun p s1 => .next (output (.received p) s1)

end Sys2Proof.Machine
end

