-- ==== Sys2Proof/Machine/Handler.lean ====
section
/-! DEFINITION. The interrupt handlers (44_interrupt_handlers.md): one meaning per operation of the IRQ
agent. -/

namespace Sys2Proof.Machine

/-- IRQ.RXNE with `rawq` not full (44_interrupt_handlers.md R203, 30_encoding.md R98). -/
def execIrqRxnePush (c : Byte) (s : State) : Out State :=
  inHandler (fun s =>
    if rawqFull s then .refused (.notSelected "IRQ.RXNE.PUSH") else .next (pushIsr c s)) s

/-- IRQ.RXNE with `rawq` full (44_interrupt_handlers.md R203, 30_encoding.md R98): the byte is lost, EV5. -/
def execIrqRxneDrop (c : Byte) (s : State) : Out State :=
  inHandler (fun s =>
    if rawqFull s then .next (pushIsr c s) else .refused (.notSelected "IRQ.RXNE.DROP")) s

/-- The look-ahead accumulation (44_interrupt_handlers.md R201): after the index has advanced, the byte
now at the new index is added into the checksum slot, modulo 255, while the index is within bounds. -/
def lookAhead (s : State) : Out State :=
  if accumulates s.txIndex s.txLen then
    andThen (memRead .txbuf s.txCpos s) fun slot =>
    andThen (memRead .txbuf s.txIndex s) fun b =>
      memWrite .txbuf s.txCpos (fold slot b) s
  else .next s

/-- IRQ.TXE.EMIT (44_interrupt_handlers.md R201). -/
def execIrqTxeEmit (s : State) : Out State :=
  inHandler (fun s =>
    if txeReq s = false then .refused .noTxeRequest
    else if txInFrame s = false then .refused (.notSelected "IRQ.TXE.EMIT")
    else
      andThen (memRead .txbuf s.txIndex s) fun b =>
      andThen (tdrWrite b s) fun s1 =>
        lookAhead { s1 with txIndex := s1.txIndex + 1 }) s

/-- IRQ.TXE.DONE (44_interrupt_handlers.md R202). -/
def execIrqTxeDone (s : State) : Out State :=
  inHandler (fun s =>
    if txeReq s = false then .refused .noTxeRequest
    else if txInFrame s then .refused (.notSelected "IRQ.TXE.DONE")
    else .next (semGive { s with txeIe := false })) s

end Sys2Proof.Machine
end

