-- ==== Sys2Proof/Machine/Peripheral.lean ====
section
/-! DEFINITION. The peripheral as environment (60_exceptions.md R241). -/

namespace Sys2Proof.Machine

/-- PER.SHIFT (60_exceptions.md R241): the data register goes to the line. -/
def execPerShift (s : State) : Out State :=
  if s.tdrFull then .next { s with wireTx := s.wireTx ++ [s.tdr], tdrFull := false }
  else .refused .nothingToShift

end Sys2Proof.Machine
end

