-- ==== Sys2Proof/Machine/Receive.lean ====
section
/-! DEFINITION. The Receive Framing Engine (42_rx_framing.md): one meaning per row of 30_encoding.md R97,
and RX.TIMEOUT. Each byte operation is the pop and the rule as one atomic step (R150). -/

namespace Sys2Proof.Machine

/-- RX.FIRST on a start marker (42_rx_framing.md R151). -/
def execRxFirstHit (s : State) : Out State :=
  rxByte "RX.FIRST.HIT" .awaitFirstStart Config.startByte true
    (fun s => .next { s with rxState := .awaitSecondStart }) s

/-- RX.FIRST on any other byte (42_rx_framing.md R151): the byte is ignored. -/
def execRxFirstMiss (c : Byte) (s : State) : Out State :=
  rxByte "RX.FIRST.MISS" .awaitFirstStart c (decide (c ≠ Config.startByte))
    (fun s => .next { s with rxState := .awaitFirstStart }) s

/-- RX.SECOND on a start marker (42_rx_framing.md R152). -/
def execRxSecondHit (s : State) : Out State :=
  rxByte "RX.SECOND.HIT" .awaitSecondStart Config.startByte true
    (fun s => .next { s with rxState := .awaitHeader }) s

/-- RX.SECOND on any other byte (42_rx_framing.md R152): back to hunting, EV1. -/
def execRxSecondMiss (c : Byte) (s : State) : Out State :=
  rxByte "RX.SECOND.MISS" .awaitSecondStart c (decide (c ≠ Config.startByte))
    (fun s => .next (note (.ev1 c) (resync s))) s

/-- RX.HEADER (42_rx_framing.md R153). -/
def execRxHeader (c : Byte) (s : State) : Out State :=
  rxByte "RX.HEADER" .awaitHeader c true
    (fun s => .next { s with rxHeader := c, rxCsum := seed c, rxState := .awaitSize }) s

/-- The registers an accepted size byte writes (42_rx_framing.md R154). -/
def acceptSize (c : Byte) (s : State) : State :=
  { s with rxSize := c, rxCsum := fold s.rxCsum c, rxIndex := 0 }

/-- RX.SIZE on 0 (42_rx_framing.md R154). -/
def execRxSizeZero (s : State) : Out State :=
  rxByte "RX.SIZE.ZERO" .awaitSize 0 true
    (fun s => .next { acceptSize 0 s with rxState := .awaitChecksum }) s

/-- RX.SIZE on 1..30 (42_rx_framing.md R154). -/
def execRxSizeData (c : Byte) (s : State) : Out State :=
  rxByte "RX.SIZE.DATA" .awaitSize c (decide (1 ≤ c.toNat) && decide (c.toNat ≤ Config.maxData))
    (fun s => .next { acceptSize c s with rxState := .awaitData }) s

/-- RX.SIZE on 31..255 (42_rx_framing.md R154; the threshold as 90_conflicts.md C1 settles it): back to
hunting, EV2, nothing else written. -/
def execRxSizeReject (c : Byte) (s : State) : Out State :=
  rxByte "RX.SIZE.REJECT" .awaitSize c (decide (Config.maxData < c.toNat))
    (fun s => .next (note (.ev2 c) (resync s))) s

/-- RX.DATA (42_rx_framing.md R155): store, fold, advance; the comparison uses the index after the
increment. -/
def execRxData (c : Byte) (s : State) : Out State :=
  rxByte "RX.DATA" .awaitData c true
    (fun s =>
      andThen (memWrite .rxdata s.rxIndex c s) fun s1 =>
        let s2 := { s1 with rxCsum := fold s1.rxCsum c, rxIndex := s1.rxIndex + 1 }
        .next { s2 with
          rxState := if s2.rxIndex = s2.rxSize.toNat then .awaitChecksum else .awaitData }) s

/-- RX.CSUM (42_rx_framing.md R156): the checksum test first, the queue-full test second
(60_exceptions.md R239); the engine hunts again in either case. -/
def execRxCsum (c : Byte) (s : State) : Out State :=
  rxByte "RX.CSUM" .awaitChecksum c true
    (fun s =>
      if c = s.rxCsum then
        andThen (assemblePacket s) fun p => .next (resync (pushNb p s))
      else .next (resync (note (.ev3 c s.rxCsum) s))) s

/-- RX.TIMEOUT (42_rx_framing.md R157): possible only with `rawq` empty (40_fifo.md R123). -/
def execRxTimeout (s : State) : Out State :=
  popT true s fun _ s' =>
    .next (resync (if s'.rxState = .awaitFirstStart then s' else note (.ev4 s'.rxState) s'))

end Sys2Proof.Machine
end

