-- ==== Sys2Proof/Machine/Reserved.lean ====
section
/-! DEFINITION. The three reserved rows (30_encoding.md R98): "no agent of the block produces it, and a
model must refuse it rather than give it a meaning". -/

namespace Sys2Proof.Machine

/-- RESERVED.STATE67 (30_encoding.md R98). -/
def execReservedState67 (_s : State) : Out State :=
  .refused (.reservedSelection "RESERVED.STATE67")

/-- RESERVED.EV10_11 (30_encoding.md R98). -/
def execReservedEv10to11 (_s : State) : Out State :=
  .refused (.reservedSelection "RESERVED.EV10_11")

/-- RESERVED.EV12_15 (30_encoding.md R98). -/
def execReservedEv12to15 (_s : State) : Out State :=
  .refused (.reservedSelection "RESERVED.EV12_15")

end Sys2Proof.Machine
end

