-- ==== Sys2Proof/Machine/Transmit.lean ====
section
/-! DEFINITION. The Transmit Engine, task side (43_tx_engine.md). -/

namespace Sys2Proof.Machine

/-- TX.SEND (43_tx_engine.md R181). -/
def execTxSend (p : Packet) (s : State) : Out State := txSendOp p s

/-- TX.WAIT (43_tx_engine.md R182): takes the semaphore and returns success, or is held. -/
def execTxWait (s : State) : Out State :=
  if s.txPhase ≠ .waiting then .refused .waitOutsideSend
  else semTake s fun s1 => .next (output .sendReturned { s1 with txPhase := .idle })

end Sys2Proof.Machine
end

