-- ==== Sys2Proof/Machine/Dispatch.lean ====
section
/-! DEFINITION. exec: one arm per instruction, each one call of its meaning. -/

namespace Sys2Proof.Machine

def exec (i : Instr) (s : State) : Host.Outcome State Fault Refusal :=
  match i with
  | .rxFirstHit => Sys2Proof.Machine.execRxFirstHit s
  | .rxFirstMiss c => Sys2Proof.Machine.execRxFirstMiss c s
  | .rxSecondHit => Sys2Proof.Machine.execRxSecondHit s
  | .rxSecondMiss c => Sys2Proof.Machine.execRxSecondMiss c s
  | .rxHeader c => Sys2Proof.Machine.execRxHeader c s
  | .rxSizeZero => Sys2Proof.Machine.execRxSizeZero s
  | .rxSizeData c => Sys2Proof.Machine.execRxSizeData c s
  | .rxSizeReject c => Sys2Proof.Machine.execRxSizeReject c s
  | .rxData c => Sys2Proof.Machine.execRxData c s
  | .rxCsum c => Sys2Proof.Machine.execRxCsum c s
  | .rxTimeout => Sys2Proof.Machine.execRxTimeout s
  | .irqRxnePush c => Sys2Proof.Machine.execIrqRxnePush c s
  | .irqRxneDrop c => Sys2Proof.Machine.execIrqRxneDrop c s
  | .irqTxeEmit => Sys2Proof.Machine.execIrqTxeEmit s
  | .irqTxeDone => Sys2Proof.Machine.execIrqTxeDone s
  | .txSend p => Sys2Proof.Machine.execTxSend p s
  | .txWait => Sys2Proof.Machine.execTxWait s
  | .linkEnable flag => Sys2Proof.Machine.execLinkEnable flag s
  | .linkSend p => Sys2Proof.Machine.execLinkSend p s
  | .linkRecv => Sys2Proof.Machine.execLinkRecv s
  | .perShift => Sys2Proof.Machine.execPerShift s
  | .qPushIsr v => Sys2Proof.Machine.execQPushIsr v s
  | .qPushNb p => Sys2Proof.Machine.execQPushNb p s
  | .qPopT t => Sys2Proof.Machine.execQPopT t s
  | .qPopInf => Sys2Proof.Machine.execQPopInf s
  | .semGiveIsr => Sys2Proof.Machine.execSemGiveIsr s
  | .semTake => Sys2Proof.Machine.execSemTake s
  | .reservedState67 => Sys2Proof.Machine.execReservedState67 s
  | .reservedEv10to11 => Sys2Proof.Machine.execReservedEv10to11 s
  | .reservedEv12to15 => Sys2Proof.Machine.execReservedEv12to15 s

end Sys2Proof.Machine
end

