-- ==== Sys2Proof/Decode.lean ====
section
/-! DEFINITION. The selection table as data, the decoder, total on every selection word and every byte
string, and the encoder, all written from 30_encoding.md R95 to R98. -/

namespace Sys2Proof

/-! ## The fields of a selection word (30_encoding.md R95) -/

/-- `SW[15:12] = ev`, the event kind. -/
def swEv (w : SelWord) : BitVec 4 := w.extractLsb' 12 4

/-- `SW[11] = g`, the guard bit. -/
def swG (w : SelWord) : BitVec 1 := w.extractLsb' 11 1

/-- `SW[10:8] = s`, the code of `rx_state`. -/
def swS (w : SelWord) : BitVec 3 := w.extractLsb' 8 3

/-- `SW[7:0] = c`, the byte operand. -/
def swC (w : SelWord) : Byte := w.extractLsb' 0 8

/-- The word `{ev, g, s, c}` (00_scope.md R9 writes concatenation so). -/
def selWord (ev : BitVec 4) (g : BitVec 1) (s : BitVec 3) (c : Byte) : SelWord :=
  ev ++ g ++ s ++ c

/-- A boolean as the bit it stands for. -/
def boolBit (b : Bool) : BitVec 1 := if b then 1#1 else 0#1

/-! ## The decoder -/

/-- The rows with `ev = 0`: the state code selects the rule, and where two rows overlap the more
specific pattern is tried first (30_encoding.md R97). -/
def decodeRxByte (s : BitVec 3) (c : Byte) : Instr :=
  match s.toNat with
  | 0 => if c = Config.startByte then .rxFirstHit else .rxFirstMiss c
  | 1 => if c = Config.startByte then .rxSecondHit else .rxSecondMiss c
  | 2 => .rxHeader c
  | 3 =>
    if c = 0#8 then .rxSizeZero
    else if c.toNat ≤ Config.maxData then .rxSizeData c
    else .rxSizeReject c
  | 4 => .rxData c
  | 5 => .rxCsum c
  | _ => .reservedState67

/-- The operation a selection names: the event kind first (30_encoding.md R96), then the guard bit, the
state code and the byte operand as its row uses them (R97, R98). Every word names exactly one row that is
not a primitive; the reserved words name the reserved rows. -/
def decode (sel : Selection) : Instr :=
  match (swEv sel.word).toNat with
  | 0 => decodeRxByte (swS sel.word) (swC sel.word)
  | 1 => .rxTimeout
  | 2 => if swG sel.word = 0#1 then .irqRxnePush (swC sel.word) else .irqRxneDrop (swC sel.word)
  | 3 => if swG sel.word = 1#1 then .irqTxeEmit else .irqTxeDone
  | 4 => .txSend sel.packet
  | 5 => .txWait
  | 6 => .linkEnable ((swC sel.word).getLsbD 0)
  | 7 => .linkSend sel.packet
  | 8 => .linkRecv
  | 9 => .perShift
  | 10 => .reservedEv10to11
  | 11 => .reservedEv10to11
  | _ => .reservedEv12to15

/-- Why a byte string is no selection word. -/
inductive DecodeError where
  /-- Fewer than the two bytes of a selection word. Safe: nothing is run. -/
  | truncated
  /-- More than the two bytes of a selection word. Safe: nothing is run. -/
  | trailingBytes
  deriving DecidableEq, Repr

/-- The decoder on bytes: a selection word is two bytes, the less significant first (the model's own
layout, assumption log 15: the spec stores the word nowhere). -/
def decodeBytes (bytes : List Byte) (p : Packet) : Except DecodeError Instr :=
  match bytes with
  | [] => .error .truncated
  | [_] => .error .truncated
  | [lo, hi] => .ok (decode { word := hi ++ lo, packet := p })
  | _ :: _ :: _ :: _ => .error .trailingBytes

/-- The first `n` bytes of a number, the least significant first. -/
def bytesOfNat : Nat → Nat → List Byte
  | 0, _ => []
  | n + 1, w => BitVec.ofNat 8 w :: bytesOfNat n (w / 256)

/-- The instruction the decoder reads from the bits `w`, the packet operand being all zeros. -/
def decodeTableWord (nbits w : Nat) : Option Instr :=
  match decodeBytes (bytesOfNat (nbits / 8) w) Packet.zero with
  | .ok i => some i
  | .error _ => none

/-! ## The encoder -/

/-- The selection word of an instruction, from its row's pattern with every `x` bit 0. A primitive row
carries the pattern of the operation that uses it (30_encoding.md R98). -/
def encodeWord : Instr → SelWord
  | .rxFirstHit => selWord 0 0 0 Config.startByte
  | .rxFirstMiss c => selWord 0 0 0 c
  | .rxSecondHit => selWord 0 0 1 Config.startByte
  | .rxSecondMiss c => selWord 0 0 1 c
  | .rxHeader c => selWord 0 0 2 c
  | .rxSizeZero => selWord 0 0 3 0
  | .rxSizeData c => selWord 0 0 3 c
  | .rxSizeReject c => selWord 0 0 3 c
  | .rxData c => selWord 0 0 4 c
  | .rxCsum c => selWord 0 0 5 c
  | .rxTimeout => selWord 1 0 0 0
  | .irqRxnePush c => selWord 2 0 0 c
  | .irqRxneDrop c => selWord 2 1 0 c
  | .irqTxeEmit => selWord 3 1 0 0
  | .irqTxeDone => selWord 3 0 0 0
  | .txSend _ => selWord 4 0 0 0
  | .txWait => selWord 5 0 0 0
  | .linkEnable flag => selWord 6 0 0 (if flag then 1 else 0)
  | .linkSend _ => selWord 7 0 0 0
  | .linkRecv => selWord 8 0 0 0
  | .perShift => selWord 9 0 0 0
  | .qPushIsr v => selWord 2 0 0 v
  | .qPushNb _ => selWord 0 0 5 0
  | .qPopT t => selWord (if t then 1 else 0) 0 0 0
  | .qPopInf => selWord 8 0 0 0
  | .semGiveIsr => selWord 3 0 0 0
  | .semTake => selWord 5 0 0 0
  | .reservedState67 => selWord 0 0 6 0
  | .reservedEv10to11 => selWord 10 0 0 0
  | .reservedEv12to15 => selWord 12 0 0 0

/-- The packet operand of an instruction; the zero packet where it has none. -/
def packetOf : Instr → Packet
  | .txSend p | .linkSend p | .qPushNb p => p
  | .rxFirstHit | .rxFirstMiss _ | .rxSecondHit | .rxSecondMiss _ | .rxHeader _ | .rxSizeZero
  | .rxSizeData _ | .rxSizeReject _ | .rxData _ | .rxCsum _ | .rxTimeout | .irqRxnePush _
  | .irqRxneDrop _ | .irqTxeEmit | .irqTxeDone | .txWait | .linkEnable _ | .linkRecv | .perShift
  | .qPushIsr _ | .qPopT _ | .qPopInf | .semGiveIsr | .semTake
  | .reservedState67 | .reservedEv10to11 | .reservedEv12to15 => Packet.zero

/-- The selection that names an instruction. -/
def encode (i : Instr) : Selection := { word := encodeWord i, packet := packetOf i }

/-! ## The selection table as data (30_encoding.md R97 and R98, spec/opcode_table.json) -/

/-- One row: its mnemonic, its mask and match values and its constraint on the byte operand. -/
structure TableRow where
  mnemonic : String
  mask : SelWord
  value : SelWord
  constraint : Byte → Bool

/-- A row that puts no constraint on the byte operand. -/
def freeRow (mnemonic : String) (mask value : SelWord) : TableRow :=
  { mnemonic := mnemonic, mask := mask, value := value, constraint := fun _ => true }

/-- A row accepts a word whose masked bits are its match value and whose byte operand meets its
constraint. -/
def TableRow.accepts (r : TableRow) (w : SelWord) : Bool :=
  (w &&& r.mask == r.value) && r.constraint (swC w)

/-- The 21 operation rows and the three reserved rows. -/
def selectionTable : List TableRow :=
  [ freeRow "RX.FIRST.HIT" 0xF7FF 0x00AA,
    { freeRow "RX.FIRST.MISS" 0xF700 0x0000 with constraint := fun c => c != 0xAA },
    freeRow "RX.SECOND.HIT" 0xF7FF 0x01AA,
    { freeRow "RX.SECOND.MISS" 0xF700 0x0100 with constraint := fun c => c != 0xAA },
    freeRow "RX.HEADER" 0xF700 0x0200,
    freeRow "RX.SIZE.ZERO" 0xF7FF 0x0300,
    { freeRow "RX.SIZE.DATA" 0xF7E0 0x0300 with
      constraint := fun c => decide (1 ≤ c.toNat) && decide (c.toNat ≤ 30) },
    { freeRow "RX.SIZE.REJECT" 0xF700 0x0300 with constraint := fun c => decide (31 ≤ c.toNat) },
    freeRow "RX.DATA" 0xF700 0x0400,
    freeRow "RX.CSUM" 0xF700 0x0500 ] ++
  [ freeRow "RX.TIMEOUT" 0xF000 0x1000,
    freeRow "IRQ.RXNE.PUSH" 0xF800 0x2000,
    freeRow "IRQ.RXNE.DROP" 0xF800 0x2800,
    freeRow "IRQ.TXE.EMIT" 0xF800 0x3800,
    freeRow "IRQ.TXE.DONE" 0xF800 0x3000,
    freeRow "TX.SEND" 0xF000 0x4000,
    freeRow "TX.WAIT" 0xF000 0x5000,
    freeRow "LINK.ENABLE" 0xF000 0x6000,
    freeRow "LINK.SEND" 0xF000 0x7000,
    freeRow "LINK.RECV" 0xF000 0x8000,
    freeRow "PER.SHIFT" 0xF000 0x9000 ] ++
  [ freeRow "RESERVED.STATE67" 0xF600 0x0600,
    freeRow "RESERVED.EV10_11" 0xE000 0xA000,
    freeRow "RESERVED.EV12_15" 0xC000 0xC000 ]

/-- The six primitive rows, whose patterns are those of the operations that use them. -/
def primitiveTable : List TableRow :=
  [ freeRow "Q.PUSH_ISR" 0xF000 0x2000,
    freeRow "Q.PUSH_NB" 0xF700 0x0500,
    freeRow "Q.POP_T" 0xE000 0x0000,
    freeRow "Q.POP_INF" 0xF000 0x8000,
    freeRow "SEM.GIVE_ISR" 0xF800 0x3000,
    freeRow "SEM.TAKE" 0xF000 0x5000 ]

/-- The mnemonics of the rows of the selection table that accept a word. -/
def acceptingRows (w : SelWord) : List String :=
  (selectionTable.filter (fun r => r.accepts w)).map (fun r => r.mnemonic)

end Sys2Proof
end

