-- ==== Sys2Proof/Machine/Select.lean ====
section
/-! DEFINITION. Selection, this block's fetch: the selection word of the next step is formed from the
event that occurs and from the state (30_encoding.md R95 and R96). -/

namespace Sys2Proof.Machine

/-- A selection with no packet operand. -/
def selectionOf (w : SelWord) : Selection := { word := w, packet := Packet.zero }

/-- The selection an event makes in a state (30_encoding.md R95, R96, R104). `ev` is the event's kind;
the block supplies `g` (`rawq_full` or `tx_in_frame`), `s` (the code of `rx_state`) and, for a received
byte the engine pops, `c`; unused fields are 0. None: the receive engine is scheduled with nothing
queued, so no byte is popped, no word is formed and the engine is held. -/
def select (s : State) (e : Event) : Option Selection :=
  match e with
  | .step =>
    match s.rawq with
    | [] => none
    | c :: _ => some (selectionOf (selWord 0 0 (rxStateCode s.rxState) c))
  | .timeout => some (selectionOf (selWord 1 0 0 0))
  | .rx b => some (selectionOf (selWord 2 (boolBit (rawqFull s)) 0 b))
  | .txe => some (selectionOf (selWord 3 (boolBit (txInFrame s)) 0 0))
  | .send p => some { word := selWord 4 0 0 0, packet := p }
  | .wait => some (selectionOf (selWord 5 0 0 0))
  | .enable flag => some (selectionOf (selWord 6 0 0 (if flag then 1 else 0)))
  | .linkSend p => some { word := selWord 7 0 0 0, packet := p }
  | .recv => some (selectionOf (selWord 8 0 0 0))
  | .shift => some (selectionOf (selWord 9 0 0 0))
  | .present w => some (selectionOf w)

/-- The operation an event selects in a state; none if the receive engine is held. -/
def selected (s : State) (e : Event) : Option Instr := (select s e).map decode

/-- The event that selects an operation; `w` is the word to put forward for a row that no event
selects. -/
def eventOf (w : SelWord) (i : Instr) : Event :=
  match i with
  | .rxFirstHit | .rxFirstMiss _ | .rxSecondHit | .rxSecondMiss _ | .rxHeader _ | .rxSizeZero
  | .rxSizeData _ | .rxSizeReject _ | .rxData _ | .rxCsum _ => .step
  | .rxTimeout => .timeout
  | .irqRxnePush c | .irqRxneDrop c => .rx c
  | .irqTxeEmit | .irqTxeDone => .txe
  | .txSend p => .send p
  | .txWait => .wait
  | .linkEnable flag => .enable flag
  | .linkSend p => .linkSend p
  | .linkRecv => .recv
  | .perShift => .shift
  | .qPushIsr _ | .qPushNb _ | .qPopT _ | .qPopInf | .semGiveIsr | .semTake
  | .reservedState67 | .reservedEv10to11 | .reservedEv12to15 => .present w

/-- A byte at the head of `rawq` with the receive engine in a given state. -/
def headByte (st : RxState) (c : Byte) (s : State) : State :=
  { s with rxState := st, rawq := c :: s.rawq.drop 1 }

/-- A send of the zero packet in flight, its first byte already on the line. -/
def zeroSendInFlight (s : State) : State :=
  { s with
    txBuf := [(0, Config.startByte), (1, Config.startByte), (2, 0), (3, 0), (4, 0)]
    txIndex := 1
    txLen := 5
    txCpos := 4
    txPhase := .waiting
    txeIe := true
    tdrFull := false }

/-- The state with the "enabled when" column of an operation's row (30_encoding.md R97, R98) made true:
in this block it is the state, together with the event, that selects the operation (assumption log 10). -/
def enabling (i : Instr) (s : State) : State :=
  match i with
  | .rxFirstHit => headByte .awaitFirstStart Config.startByte s
  | .rxFirstMiss c => headByte .awaitFirstStart c s
  | .rxSecondHit => headByte .awaitSecondStart Config.startByte s
  | .rxSecondMiss c => headByte .awaitSecondStart c s
  | .rxHeader c => headByte .awaitHeader c s
  | .rxSizeZero => headByte .awaitSize 0 s
  | .rxSizeData c => headByte .awaitSize c s
  | .rxSizeReject c => headByte .awaitSize c s
  | .rxData c => headByte .awaitData c s
  | .rxCsum c => headByte .awaitChecksum c s
  | .rxTimeout => { s with rawq := [] }
  | .irqRxnePush _ => { s with rawq := s.rawq.take (s.params.rawqCap - 1) }
  | .irqRxneDrop _ =>
    { s with rawq := s.rawq ++ List.replicate (s.params.rawqCap - s.rawq.length) 0 }
  | .irqTxeEmit => zeroSendInFlight s
  | .irqTxeDone => { zeroSendInFlight s with txIndex := 5 }
  | .txSend _ | .linkSend _ => { s with txPhase := .idle, tdrFull := false }
  | .txWait => { s with txPhase := .waiting, sem := true }
  | .linkRecv => { s with pktq := if s.pktq.isEmpty then [Packet.zero] else s.pktq }
  | .perShift => { s with tdrFull := true }
  | .linkEnable _ | .qPushIsr _ | .qPushNb _ | .qPopT _ | .qPopInf | .semGiveIsr | .semTake
  | .reservedState67 | .reservedEv10to11 | .reservedEv12to15 => s

end Sys2Proof.Machine
end

