-- ==== Sys2Proof/Machine/Step.lean ====
section
/-! DEFINITION. One step of the block: one event of the environment's script, the operation it selects,
and the operation's effect. -/

namespace Sys2Proof.Machine

/-- One event: the operation it selects is performed. Where none is selected the receive engine is held,
and a hold changes no state (92_eei_decisions.md D32). -/
def perform (e : Event) (s : State) : Host.Outcome State Fault Refusal :=
  match selected s e with
  | some i => exec i s
  | none => .next s

/-- One step: the next event of the script is consumed and performed. With no event left every agent
waits, and waiting changes no state (60_exceptions.md R255). -/
def step (s : State) : Host.Outcome State Fault Refusal :=
  match s.script with
  | [] => .next s
  | e :: es => perform e { s with script := es }

/-- The state whose very next step runs the instruction of a table word: its event stands at the head of
the script, and the state variables its row's "enabled when" column tests are set (assumption log 10). -/
def State.withFetchWord (s : State) (nbits w : Nat) : State :=
  match decodeTableWord nbits w with
  | some i =>
    { enabling i s with script := eventOf (BitVec.ofNat 16 w) i :: s.script }
  | none => s

end Sys2Proof.Machine
end

