-- ==== Sys2Proof/Safety.lean ====
section
/-! DEFINITION. The words claims are stated in: runs of events, legal events (30_encoding.md R104), the
invariants of the receive side (10_state.md R28), of the transmit side (10_state.md R35, 41_semaphore.md
R143) and of the queues (40_fifo.md R127), a send in flight and what it has put on the line
(43_tx_engine.md R183), and what each agent may write (10_state.md R20 and R43). -/

namespace Sys2Proof.Machine

/-! ## Runs -/

/-- A sequence of events, each performed in the state the one before it left. -/
def performAll : List Event → State → Out State
  | [], s => .next s
  | e :: es, s => andThen (perform e s) (performAll es)

/-- `n` steps of the receive engine's loop, no timeout in between (42_rx_framing.md R150). -/
def engineRun (n : Nat) (s : State) : Out State := performAll (List.replicate n .step) s

/-- The operations those `n` steps perform, in order. -/
def engineOps : Nat → State → List Instr
  | 0, _ => []
  | n + 1, s =>
    match selected s .step, perform .step s with
    | some i, .next t => i :: engineOps n t
    | some i, _ => [i]
    | none, _ => []

/-- The operation the next step performs: what the next event of the script selects (30_encoding.md R95,
R104); none with no event left, or with the receive engine held. -/
def scheduled (s : State) : Option Instr :=
  match s.script with
  | [] => none
  | e :: _ => selected s e

/-- The byte an operation of the receive engine pops (42_rx_framing.md R150 to R156); none for every other
operation. -/
def rxByteOf : Instr → Option Byte
  | .rxFirstHit | .rxSecondHit => some Config.startByte
  | .rxSizeZero => some 0
  | .rxFirstMiss c | .rxSecondMiss c | .rxHeader c | .rxSizeData c | .rxSizeReject c | .rxData c
  | .rxCsum c => some c
  | .rxTimeout | .irqRxnePush _ | .irqRxneDrop _ | .irqTxeEmit | .irqTxeDone | .txSend _ | .txWait
  | .linkEnable _ | .linkSend _ | .linkRecv | .perShift | .qPushIsr _ | .qPushNb _ | .qPopT _
  | .qPopInf | .semGiveIsr | .semTake | .reservedState67 | .reservedEv10to11
  | .reservedEv12to15 => none

/-- The pseudo-operation `drain` for a frame of `n` bytes: `n` pairs of `shift` and `txe`
(30_encoding.md R105). -/
def drain : Nat → List Event
  | 0 => []
  | n + 1 => .shift :: .txe :: drain n

/-- The "requires" column of 30_encoding.md R104: the event is a legal next event. A packet must meet
its invariant (43_tx_engine.md R180 P2); a word put forward as it stands is no event of the block. -/
def legal (s : State) : Event → Bool
  | .rx _ => true
  | .step => !rawqEmpty s
  | .timeout => rawqEmpty s
  | .send p => decide (s.txPhase = .idle) && p.wf
  | .linkSend p => decide (s.txPhase = .idle) && p.wf
  | .shift => s.tdrFull
  | .txe => txeReq s
  | .wait => decide (s.txPhase = .waiting) && semAvail s
  | .recv => !pktqEmpty s
  | .enable _ => true
  | .present _ => false

/-! ## Invariants -/

/-- The cells from `a` on hold these bytes. -/
def memHolds (m : Memory) (a : Nat) : List Byte → Bool
  | [] => true
  | b :: bs => decide (memGet m a = some b) && memHolds m (a + 1) bs

/-- No cell is listed at or above `n`. -/
def below (n : Nat) (m : Memory) : Bool := m.all (fun c => decide (c.1 < n))

/-- Both memory spaces are in canonical form and inside their index ranges (20_memory.md R61). -/
def MemInv (s : State) : Prop :=
  Memory.wf s.txBuf = true ∧ below s.params.txBufCap s.txBuf = true ∧
    Memory.wf s.rxData = true ∧ below Config.maxData s.rxData = true

/-- The receive registers are in range (10_state.md R20) and mean what 10_state.md R28 says in each
receive state. -/
def RxInv (s : State) : Prop :=
  s.rxSize.toNat ≤ 30 ∧ s.rxIndex ≤ 30 ∧ s.rxCsum.toNat < 255 ∧
    match s.rxState with
    | .awaitFirstStart => True
    | .awaitSecondStart => True
    | .awaitHeader => True
    | .awaitSize => s.rxCsum = seed s.rxHeader
    | .awaitData =>
      1 ≤ s.rxSize.toNat ∧ s.rxIndex < s.rxSize.toNat ∧
        ∃ d : List Byte, d.length = s.rxIndex ∧ memHolds s.rxData 0 d = true ∧
          s.rxCsum = csum s.rxHeader s.rxSize d
    | .awaitChecksum =>
      s.rxIndex = s.rxSize.toNat ∧
        ∃ d : List Byte, d.length = s.rxSize.toNat ∧ memHolds s.rxData 0 d = true ∧
          s.rxCsum = csum s.rxHeader s.rxSize d

/-- The value of the checksum slot when the send index is `i` (10_state.md R35): the sum, modulo 255, of
the frame bytes from index 2 to `min(tx_index, tx_len - 2)`. -/
def slotValue (p : Packet) (i : Nat) : Byte :=
  mod255 (byteSum ((p.header :: p.size :: p.data).take (min i (txLenOf p.size - 2) - 1)))

/-- A send of `p` is in flight (10_state.md R35, 41_semaphore.md R143). -/
def SendInFlight (p : Packet) (s : State) : Prop :=
  p.wf = true ∧ s.txPhase = .waiting ∧ s.txLen = txLenOf p.size ∧ s.txCpos = txCposOf s.txLen ∧
    1 ≤ s.txIndex ∧ s.txIndex ≤ s.txLen ∧ memHolds s.txBuf 0 (sendImage p) = true ∧
    memGet s.txBuf s.txCpos = some (slotValue p s.txIndex) ∧
    (s.sem = false → s.txeIe = true) ∧
    (s.sem = true → s.txeIe = false ∧ s.txIndex = s.txLen ∧ s.tdrFull = false)

/-- The transmit registers are in range (10_state.md R20); with no send in flight the semaphore is
unavailable, the interrupt disabled and the data register empty (41_semaphore.md R143, 43_tx_engine.md
R184); with one in flight the registers hold its frame. -/
def TxInv (s : State) : Prop :=
  s.txIndex ≤ 35 ∧ s.txLen ≤ 35 ∧ s.txCpos ≤ 34 ∧
    match s.txPhase with
    | .idle => s.sem = false ∧ s.txeIe = false ∧ s.tdrFull = false
    | .waiting => ∃ p : Packet, SendInFlight p s

/-- The queues hold at most their capacity (40_fifo.md R127) and only packets (10_state.md R21). -/
def QueueInv (s : State) : Prop :=
  s.rawq.length ≤ s.params.rawqCap ∧ s.pktq.length ≤ Config.pktqCap ∧ ∀ p ∈ s.pktq, p.wf = true

/-- The invariant of the block. -/
def Inv (s : State) : Prop :=
  s.params.ok = true ∧ MemInv s ∧ RxInv s ∧ TxInv s ∧ QueueInv s

/-! ## What has been sent and delivered -/

/-- What the first half of a send leaves (43_tx_engine.md R181): the frame image with a zero checksum
slot in `tx_buf` (20_memory.md R66), the first byte in the data register, the index at 1, the interrupt
enabled, the sender waiting. Cells past the frame read as before, and no other variable changes. -/
def LoadsFrame (p : Packet) (s t : State) : Prop :=
  t = { s with
    txBuf := t.txBuf, txLen := p.size.toNat + 5, txCpos := p.size.toNat + 4, tdr := 0xAA#8,
    tdrFull := true, txIndex := 1, txeIe := true, txPhase := .waiting } ∧
  memRead .txbuf 0 t = .next 0xAA#8 ∧ memRead .txbuf 1 t = .next 0xAA#8 ∧
  memRead .txbuf 2 t = .next p.header ∧ memRead .txbuf 3 t = .next p.size ∧
  (∀ (i : Nat) (b : Byte), p.data[i]? = some b → memRead .txbuf (4 + i) t = .next b) ∧
  memRead .txbuf (p.size.toNat + 4) t = .next 0x00#8 ∧
  ∀ a : Nat, p.size.toNat + 5 ≤ a → memRead .txbuf a t = memRead .txbuf a s

/-- The bytes written to the data register so far, in order: those on the line and the one waiting. -/
def lineSent (s : State) : List Byte := s.wireTx ++ (if s.tdrFull then [s.tdr] else [])

/-- A send of `p` is in flight and, after `base`, exactly the frame's first `tx_index` bytes have been
written to the data register. -/
def Sending (base : List Byte) (p : Packet) (s : State) : Prop :=
  SendInFlight p s ∧ lineSent s = base ++ (frame p.header p.data).take s.txIndex

/-- The packets `receive` has returned, in order. -/
def delivered (s : State) : List Packet :=
  s.outs.filterMap fun o =>
    match o with
    | .received p => some p
    | _ => none

/-- How many gives the semaphore has had: each hands a hint outward (41_semaphore.md R141). -/
def gives (s : State) : Nat :=
  s.outs.countP fun o =>
    match o with
    | .woken _ => true
    | _ => false

/-- How many takes have completed: each lets `send` return (43_tx_engine.md R182). -/
def takes (s : State) : Nat :=
  s.outs.countP fun o =>
    match o with
    | .sendReturned => true
    | _ => false

/-! ## Ownership -/

/-- From `s` to `t` an agent has written at most the variables it owns or shares (10_state.md R20, R43)
and the model's own records: `t` is `s` but for those. -/
def writesOnlyOwned (a : Agent) (s t : State) : Prop :=
  match a with
  | .rxeng =>
    t = { s with
      rxState := t.rxState, rxHeader := t.rxHeader, rxSize := t.rxSize, rxData := t.rxData,
      rxIndex := t.rxIndex, rxCsum := t.rxCsum, rawq := t.rawq, pktq := t.pktq,
      notes := t.notes, outs := t.outs }
  | .irq =>
    t = { s with
      txBuf := t.txBuf, txIndex := t.txIndex, txeIe := t.txeIe, rawq := t.rawq, sem := t.sem,
      tdr := t.tdr, tdrFull := t.tdrFull, notes := t.notes, outs := t.outs,
      freeCount := t.freeCount }
  | .sender =>
    t = { s with
      txBuf := t.txBuf, txIndex := t.txIndex, txLen := t.txLen, txCpos := t.txCpos,
      txPhase := t.txPhase, txeIe := t.txeIe, sem := t.sem, tdr := t.tdr, tdrFull := t.tdrFull,
      outs := t.outs }
  | .receiver => t = { s with pktq := t.pktq, outs := t.outs }
  | .host => t = { s with outs := t.outs }
  | .periph => t = { s with wireTx := t.wireTx, tdrFull := t.tdrFull }

end Sys2Proof.Machine
end

