-- ==== Sys2Proof/Certificates/Slice0/Obligations.lean ====
section
/-! DEFINITION. The statements for the provers. Each per-instruction statement says which event selects
the operation, that it answers a next state, and the whole of that state: a field that is not named in
the record update is unchanged. -/

open Sys2Proof Sys2Proof.Machine

/-! ## Selection and encoding -/

/-- Every well-formed instruction that is not a primitive row is read back from its encoding, both from
the selection and from the word's two bytes (30_encoding.md R95 to R98; the order of the two bytes is the
model's own, log 15). -/
def Obligations.DecodeReadsBackEveryEncoding : Prop :=
  ∀ i : Instr, i.wf = true → i.isPrim = false →
    decode (encode i) = i ∧
      decodeBytes (bytesOfNat 2 (encodeWord i).toNat) (packetOf i) = .ok i

/-- Every selection word is accepted by exactly one row of the selection table that is not a primitive,
and the decoder names that row (30_encoding.md R98, section 4). -/
def Obligations.EverySelectionWordHasExactlyOneRow : Prop :=
  ∀ sel : Selection, acceptingRows sel.word = [(decode sel).mnemonic]

/-- Words written out from the patterns of 30_encoding.md R97 and R98, one of each format. -/
def Obligations.WrittenWordsDecodeToTheirRows : Prop :=
  decode ⟨0x02AA#16, Packet.zero⟩ = .rxHeader 0xAA ∧
    decode ⟨0x031E#16, Packet.zero⟩ = .rxSizeData 30 ∧
    decode ⟨0x031F#16, Packet.zero⟩ = .rxSizeReject 31 ∧
    decode ⟨0x28AA#16, Packet.zero⟩ = .irqRxneDrop 0xAA ∧
    decode ⟨0x3800#16, Packet.zero⟩ = .irqTxeEmit ∧
    decode ⟨0x6001#16, Packet.zero⟩ = .linkEnable true ∧
    decode ⟨0x9000#16, Packet.zero⟩ = .perShift

/-- A step consumes the next event of the script and runs the operation it selects; with the receive
engine held, or no event left, it changes nothing else. (The script is the model's own, log 5 to 7.) -/
def Obligations.StepRunsTheSelectedOperation : Prop :=
  ∀ s : State,
    (∀ (e : Event) (es : List Event) (i : Instr), s.script = e :: es →
      selected { s with script := es } e = some i → step s = exec i { s with script := es }) ∧
    (∀ (es : List Event), s.script = .step :: es → s.rawq = [] →
      step s = .next { s with script := es }) ∧
    (s.script = [] → step s = .next s)

/-! ## The receive engine -/

/-- RX.FIRST (42_rx_framing.md R151): a start marker leads to AwaitSecondStart, any other byte is
ignored; one byte is consumed. -/
def Obligations.RxFirstHuntsForTheMarker : Prop :=
  ∀ (s : State) (c : Byte) (q : List Byte), s.rawq = c :: q → s.rxState = .awaitFirstStart →
    (c = 0xAA#8 →
      selected s .step = some .rxFirstHit ∧
        exec .rxFirstHit s = .next { s with rawq := q, rxState := .awaitSecondStart }) ∧
    (c ≠ 0xAA#8 →
      selected s .step = some (.rxFirstMiss c) ∧
        exec (.rxFirstMiss c) s = .next { s with rawq := q, rxState := .awaitFirstStart })

/-- RX.SECOND (42_rx_framing.md R152): a start marker leads to AwaitHeader, any other byte back to
AwaitFirstStart with EV1; one byte is consumed. -/
def Obligations.RxSecondNeedsTheMarker : Prop :=
  ∀ (s : State) (c : Byte) (q : List Byte), s.rawq = c :: q → s.rxState = .awaitSecondStart →
    (c = 0xAA#8 →
      selected s .step = some .rxSecondHit ∧
        exec .rxSecondHit s = .next { s with rawq := q, rxState := .awaitHeader }) ∧
    (c ≠ 0xAA#8 →
      selected s .step = some (.rxSecondMiss c) ∧
        exec (.rxSecondMiss c) s =
          .next { s with rawq := q, rxState := .awaitFirstStart, notes := s.notes ++ [.ev1 c] })

/-- RX.HEADER (42_rx_framing.md R153): every byte is a header; the accumulator is seeded with it modulo
255, so 0xFF seeds 0. -/
def Obligations.RxHeaderRecordsAndSeeds : Prop :=
  ∀ (s : State) (c : Byte) (q : List Byte), s.rawq = c :: q → s.rxState = .awaitHeader →
    selected s .step = some (.rxHeader c) ∧
      exec (.rxHeader c) s =
        .next { s with
          rawq := q, rxHeader := c, rxCsum := BitVec.ofNat 8 (c.toNat % 255),
          rxState := .awaitSize }

/-- RX.SIZE (42_rx_framing.md R154): 0 leads to AwaitChecksum, 1 to 30 to AwaitData, 31 to 255 back to
AwaitFirstStart with EV2 and nothing else written. -/
def Obligations.RxSizeAcceptsUpToThirty : Prop :=
  ∀ (s : State) (c : Byte) (q : List Byte), s.rawq = c :: q → s.rxState = .awaitSize →
    (c.toNat = 0 →
      selected s .step = some .rxSizeZero ∧
        exec .rxSizeZero s =
          .next { s with
            rawq := q, rxSize := 0, rxCsum := BitVec.ofNat 8 (s.rxCsum.toNat % 255), rxIndex := 0,
            rxState := .awaitChecksum }) ∧
    (1 ≤ c.toNat ∧ c.toNat ≤ 30 →
      selected s .step = some (.rxSizeData c) ∧
        exec (.rxSizeData c) s =
          .next { s with
            rawq := q, rxSize := c,
            rxCsum := BitVec.ofNat 8 ((s.rxCsum.toNat + c.toNat) % 255), rxIndex := 0,
            rxState := .awaitData }) ∧
    (30 < c.toNat →
      selected s .step = some (.rxSizeReject c) ∧
        exec (.rxSizeReject c) s =
          .next { s with rawq := q, rxState := .awaitFirstStart, notes := s.notes ++ [.ev2 c] })

/-- RX.DATA (42_rx_framing.md R155): the byte is stored at `rx_index`, folded in, the index advanced; the
state is AwaitChecksum once the new index equals the size. Every other cell reads as before. With an index
outside the buffer, where R155 gives no behaviour, the store is refused (20_memory.md R62; log 4). -/
def Obligations.RxDataStoresAndFolds : Prop :=
  ∀ (s : State) (c : Byte) (q : List Byte), s.rawq = c :: q → s.rxState = .awaitData →
    selected s .step = some (.rxData c) ∧
    (s.rxIndex < 30 →
      ∃ t, exec (.rxData c) s = .next t ∧
        t = { s with
          rawq := q, rxData := t.rxData,
          rxCsum := BitVec.ofNat 8 ((s.rxCsum.toNat + c.toNat) % 255),
          rxIndex := s.rxIndex + 1,
          rxState := if s.rxIndex + 1 = s.rxSize.toNat then .awaitChecksum else .awaitData } ∧
        ∀ a : Nat,
          memRead .rxdata a t = if a = s.rxIndex then .next c else memRead .rxdata a s) ∧
    (30 ≤ s.rxIndex →
      exec (.rxData c) s = .refused (.outsideSpace .rxdata s.rxIndex))

/-- RX.CSUM (42_rx_framing.md R156, 60_exceptions.md R239): on a match the packet in the registers is
queued, or dropped with EV6 when two are queued; on a mismatch EV3 whatever the queue holds; the engine
hunts again in every case and no memory is written. -/
def Obligations.RxCsumEmitsOnMatch : Prop :=
  ∀ (s : State) (c : Byte) (q : List Byte), s.rawq = c :: q → s.rxState = .awaitChecksum →
    selected s .step = some (.rxCsum c) ∧
    (∀ d : List Byte, c = s.rxCsum → d.length = s.rxSize.toNat → d.length ≤ 30 →
      (∀ (i : Nat) (b : Byte), d[i]? = some b → memRead .rxdata i s = .next b) →
      exec (.rxCsum c) s =
        if s.pktq.length < 2 then
          .next { s with
            rawq := q, rxState := .awaitFirstStart,
            pktq := s.pktq ++ [{ header := s.rxHeader, size := s.rxSize, data := d }] }
        else
          .next { s with
            rawq := q, rxState := .awaitFirstStart,
            notes := s.notes ++
              [.ev6 { header := s.rxHeader, size := s.rxSize, data := d }] }) ∧
    (c ≠ s.rxCsum →
      exec (.rxCsum c) s =
        .next { s with
          rawq := q, rxState := .awaitFirstStart, notes := s.notes ++ [.ev3 c s.rxCsum] })

/-- RX.TIMEOUT (42_rx_framing.md R157): with nothing queued the engine hunts again, EV4 unless it was
hunting already, and no other variable changes. (With a byte queued there is no timeout, 40_fifo.md R123;
what the model does with such an event is IllegalEventHoldsOrIsRefused's.) -/
def Obligations.RxTimeoutResynchronises : Prop :=
  ∀ s : State, s.rawq = [] →
    selected s .timeout = some .rxTimeout ∧
      exec .rxTimeout s =
        if s.rxState = .awaitFirstStart then .next s
        else .next { s with rxState := .awaitFirstStart, notes := s.notes ++ [.ev4 s.rxState] }

/-! ## The interrupt handlers -/

/-- IRQ.RXNE (44_interrupt_handlers.md R203): a received byte is appended to `rawq`, or lost with EV5 when
`rawq` holds its capacity; in every state one of the two happens and the handler never waits. -/
def Obligations.ReceivedByteIsQueuedOrDropped : Prop :=
  ∀ (s : State) (b : Byte),
    (s.rawq.length < s.params.rawqCap →
      selected s (.rx b) = some (.irqRxnePush b) ∧
        exec (.irqRxnePush b) s = .next { s with rawq := s.rawq ++ [b] }) ∧
    (s.params.rawqCap ≤ s.rawq.length →
      selected s (.rx b) = some (.irqRxneDrop b) ∧
        exec (.irqRxneDrop b) s = .next { s with notes := s.notes ++ [.ev5 b] })

/-- IRQ.TXE.EMIT (44_interrupt_handlers.md R201): the byte at `tx_index` goes to the data register, the
index advances, and while `1 < new index <= tx_len - 2` the byte now at the new index is added into the
checksum slot modulo 255. Every other cell reads as before. -/
def Obligations.EmitSendsTheByteAndLooksAhead : Prop :=
  ∀ (s : State) (b slot ahead : Byte), s.txeIe = true → s.tdrFull = false → s.txIndex < s.txLen →
    memRead .txbuf s.txIndex s = .next b →
    selected s .txe = some .irqTxeEmit ∧
    (1 < s.txIndex + 1 ∧ s.txIndex + 1 + 2 ≤ s.txLen →
      memRead .txbuf s.txCpos s = .next slot → memRead .txbuf (s.txIndex + 1) s = .next ahead →
      ∃ t, exec .irqTxeEmit s = .next t ∧
        t = { s with
          txBuf := t.txBuf, tdr := b, tdrFull := true, txIndex := s.txIndex + 1 } ∧
        ∀ a : Nat,
          memRead .txbuf a t =
            if a = s.txCpos then .next (BitVec.ofNat 8 ((slot.toNat + ahead.toNat) % 255))
            else memRead .txbuf a s) ∧
    (¬(1 < s.txIndex + 1 ∧ s.txIndex + 1 + 2 ≤ s.txLen) →
      exec .irqTxeEmit s =
        .next { s with tdr := b, tdrFull := true, txIndex := s.txIndex + 1 })

/-- IRQ.TXE.DONE (44_interrupt_handlers.md R202, 41_semaphore.md R141): the transmit-empty event that
finds the index at or past the frame length disables the interrupt and gives the semaphore; nothing is
emitted and the index stays. The hint handed outward is some boolean, left free (log 13). -/
def Obligations.DoneDisablesAndGives : Prop :=
  ∀ s : State, s.txeIe = true → s.tdrFull = false → s.txLen ≤ s.txIndex →
    selected s .txe = some .irqTxeDone ∧
      ∃ hint : Bool,
        exec .irqTxeDone s =
          .next { s with
            txeIe := false, sem := true, outs := s.outs ++ [.woken hint],
            freeCount := s.freeCount + 1 }

/-- The transmit and the receive part of one handler invocation can be served in either order
(44_interrupt_handlers.md R200, 60_exceptions.md R238), in every state. -/
def Obligations.HandlerPartsCommute : Prop :=
  ∀ (s : State) (b : Byte),
    andThen (perform .txe s) (perform (.rx b)) = andThen (perform (.rx b) s) (perform .txe)

/-! ## The transmit engine and the facade -/

/-- TX.SEND (43_tx_engine.md R181) and LINK.SEND (45_link_facade.md R221), whose first step it is: with
no send in flight, a well-formed packet, the data register empty and a buffer of at least 35 bytes, both
load the frame and start the transmission; neither waits. -/
def Obligations.SendLoadsTheFrame : Prop :=
  ∀ (s : State) (p : Packet), s.txPhase = .idle → p.size.toNat ≤ 30 →
    p.data.length = p.size.toNat → s.tdrFull = false → 35 ≤ s.params.txBufCap →
    selected s (.send p) = some (.txSend p) ∧
      selected s (.linkSend p) = some (.linkSend p) ∧
      ∃ t, exec (.txSend p) s = .next t ∧ exec (.linkSend p) s = .next t ∧ LoadsFrame p s t

/-- A send is refused while another is in flight, and a send of a packet whose size is above 30 or is not
the number of its data bytes is refused (43_tx_engine.md R180 P1 and P2, 30_encoding.md R102). -/
def Obligations.SendOutsideItsPreconditionIsRefused : Prop :=
  ∀ (s : State) (p : Packet),
    (s.txPhase = .waiting →
      exec (.txSend p) s = .refused .sendInFlight ∧
        exec (.linkSend p) s = .refused .sendInFlight) ∧
    (s.txPhase = .idle → 30 < p.size.toNat ∨ p.data.length ≠ p.size.toNat →
      exec (.txSend p) s = .refused .packetIllFormed ∧
        exec (.linkSend p) s = .refused .packetIllFormed)

/-- TX.WAIT (43_tx_engine.md R182): with the semaphore available it takes it, ends the send and returns
success; without it the sender is held and nothing changes; outside a send it is refused. (A hold as a
step that changes nothing is the model's choice, log 7; the refusal is log 8.) -/
def Obligations.WaitTakesTheSemaphoreOrHolds : Prop :=
  ∀ s : State,
    selected s .wait = some .txWait ∧
    (s.txPhase = .waiting → s.sem = true →
      exec .txWait s =
        .next { s with sem := false, txPhase := .idle, outs := s.outs ++ [.sendReturned] }) ∧
    (s.txPhase = .waiting → s.sem = false → exec .txWait s = .next s) ∧
    (s.txPhase = .idle → exec .txWait s = .refused .waitOutsideSend)

/-- LINK.ENABLE (45_link_facade.md R220): for either flag and in any state it returns success and writes
no state of the block. -/
def Obligations.EnableReturnsSuccessAndWritesNothing : Prop :=
  ∀ (s : State) (flag : Bool),
    selected s (.enable flag) = some (.linkEnable flag) ∧
      exec (.linkEnable flag) s = .next { s with outs := s.outs ++ [.enableReturned] }

/-- LINK.RECV (45_link_facade.md R222, 40_fifo.md R124): the oldest packet is taken from `pktq` and
returned; with none queued the receiver is held and nothing changes. (A hold as a step that changes
nothing is the model's choice, log 7.) -/
def Obligations.ReceiveReturnsTheOldestPacketOrHolds : Prop :=
  ∀ s : State,
    selected s .recv = some .linkRecv ∧
    (∀ (p : Packet) (q : List Packet), s.pktq = p :: q →
      exec .linkRecv s = .next { s with pktq := q, outs := s.outs ++ [.received p] }) ∧
    (s.pktq = [] → exec .linkRecv s = .next s)

/-- PER.SHIFT (60_exceptions.md R241): a full data register goes to the end of `wire_tx` and is empty
afterwards; with an empty one the operation is refused (log 8). -/
def Obligations.ShiftMovesTheDataRegisterToTheLine : Prop :=
  ∀ s : State,
    selected s .shift = some .perShift ∧
    (s.tdrFull = true →
      exec .perShift s = .next { s with wireTx := s.wireTx ++ [s.tdr], tdrFull := false }) ∧
    (s.tdrFull = false → exec .perShift s = .refused .nothingToShift)

/-! ## The primitives run on their own -/

/-- Q.PUSH_ISR and Q.PUSH_NB (40_fifo.md R121, R122): the item goes to the tail, or is dropped with EV5 or
EV6 when the queue holds its capacity; nothing else changes and neither waits. -/
def Obligations.PushesAppendOrDrop : Prop :=
  ∀ (s : State) (v : Byte) (p : Packet),
    exec (.qPushIsr v) s =
        (if s.rawq.length < s.params.rawqCap then .next { s with rawq := s.rawq ++ [v] }
        else .next { s with notes := s.notes ++ [.ev5 v] }) ∧
      exec (.qPushNb p) s =
        (if s.pktq.length < 2 then .next { s with pktq := s.pktq ++ [p] }
        else .next { s with notes := s.notes ++ [.ev6 p] })

/-- Q.POP_T and Q.POP_INF (40_fifo.md R123, R124): with an item queued the oldest is taken and handed
out; with none, Q.POP_T times out or holds and Q.POP_INF holds. R123 gives no timeout with an item
queued: that such an event is refused is the model's choice (log 8). The item handed out is recorded in the model's own
list (log 11); a hold is a step that changes nothing (log 7). -/
def Obligations.PopsTakeTheOldestOrHold : Prop :=
  ∀ s : State,
    (∀ (v : Byte) (q : List Byte), s.rawq = v :: q →
      exec (.qPopT false) s = .next { s with rawq := q, outs := s.outs ++ [.popped (some v)] } ∧
        exec (.qPopT true) s = .refused .timeoutWithByteQueued) ∧
    (s.rawq = [] →
      exec (.qPopT false) s = .next s ∧
        exec (.qPopT true) s = .next { s with outs := s.outs ++ [.popped none] }) ∧
    (∀ (p : Packet) (q : List Packet), s.pktq = p :: q →
      exec .qPopInf s = .next { s with pktq := q, outs := s.outs ++ [.poppedPacket p] }) ∧
    (s.pktq = [] → exec .qPopInf s = .next s)

/-- SEM.GIVE_ISR and SEM.TAKE (41_semaphore.md R141, R142): a give makes the semaphore available whatever
it was; a take makes an available one unavailable, or holds (log 7). The hint is some boolean, left free
(log 13). -/
def Obligations.GiveAndTakeTheSemaphore : Prop :=
  ∀ s : State,
    (∃ hint : Bool,
      exec .semGiveIsr s =
        .next { s with
          sem := true, outs := s.outs ++ [.woken hint], freeCount := s.freeCount + 1 }) ∧
    (s.sem = true → exec .semTake s = .next { s with sem := false }) ∧
    (s.sem = false → exec .semTake s = .next s)

/-- The three reserved rows are refused in every state (30_encoding.md R98), and the words of their
patterns select them. -/
def Obligations.ReservedRowsAreRefused : Prop :=
  ∀ s : State,
    exec .reservedState67 s = .refused (.reservedSelection "RESERVED.STATE67") ∧
      exec .reservedEv10to11 s = .refused (.reservedSelection "RESERVED.EV10_11") ∧
      exec .reservedEv12to15 s = .refused (.reservedSelection "RESERVED.EV12_15") ∧
      ∀ w : SelWord,
        ((w &&& 0xF600#16 = 0x0600#16 → selected s (.present w) = some .reservedState67) ∧
          (w &&& 0xE000#16 = 0xA000#16 → selected s (.present w) = some .reservedEv10to11) ∧
          (w &&& 0xC000#16 = 0xC000#16 → selected s (.present w) = some .reservedEv12to15))

/-! ## Checksum arithmetic and memory -/

/-- The checksum functions (00_scope.md R12): `csum` is the sum of header, size and data modulo 255,
`fold` the one-byte update, both below 255, and folding one byte at a time from the seed
`header mod 255` gives the one-shot value. -/
def Obligations.FoldingByteByByteIsTheChecksum : Prop :=
  ∀ (h n : Byte) (d : List Byte),
    (csum h n d).toNat = (h.toNat + n.toNat + (d.map BitVec.toNat).sum) % 255 ∧
      (∀ a c : Byte, (fold a c).toNat = (a.toNat + c.toNat) % 255) ∧
      d.foldl fold (fold (BitVec.ofNat 8 (h.toNat % 255)) n) = csum h n d

/-- The memory primitives (20_memory.md R62): a write inside a space succeeds, the cell written reads the
byte, every other cell of both spaces reads as before; a read of a cell that is not written is a fault
(log 3); an access outside the space is refused (log 4). -/
def Obligations.MemoryPrimitivesKeepEveryOtherCell : Prop :=
  ∀ (s : State) (sp : Space) (a : Nat) (v : Byte),
    (a < spaceSize s sp →
      ∃ t, memWrite sp a v s = .next t ∧ memRead sp a t = .next v ∧
        (∀ (sq : Space) (x : Nat), sq ≠ sp ∨ x ≠ a → memRead sq x t = memRead sq x s) ∧
        t = { s with txBuf := t.txBuf, rxData := t.rxData } ∧
        (Memory.wf s.txBuf = true → Memory.wf s.rxData = true →
          Memory.wf t.txBuf = true ∧ Memory.wf t.rxData = true)) ∧
    (a < spaceSize s sp → (∀ c ∈ cells s sp, c.1 ≠ a) →
      memRead sp a s = .fault (.unwrittenRead sp a)) ∧
    (spaceSize s sp ≤ a →
      memRead sp a s = .refused (.outsideSpace sp a) ∧
        memWrite sp a v s = .refused (.outsideSpace sp a))

/-! ## Reset and invariants -/

/-- After reset (10_state.md R44), for any values of the two OPEN parameters: the receive engine hunts,
no send is in flight, the interrupt is disabled, the queues are empty, the semaphore unavailable, the
data register empty, nothing on the line, and no cell of either space has a value (reading one faults,
log 3). -/
def Obligations.ResetLeavesTheTableOfValues : Prop :=
  ∀ p : Params,
    let s := State.resetWith p
    s.rxState = .awaitFirstStart ∧ s.txPhase = .idle ∧ s.txeIe = false ∧ s.rawq = [] ∧
      s.pktq = [] ∧ s.sem = false ∧ s.tdrFull = false ∧ s.wireTx = [] ∧
      ∀ (sp : Space) (a : Nat), a < spaceSize s sp →
        memRead sp a s = .fault (.unwrittenRead sp a)

/-- The invariant holds after reset, for any parameters within the bounds of 00_scope.md R8. (The registers
10_state.md R44 calls unspecified hold the model's value, log 2.) -/
def Obligations.InvariantHoldsAtReset : Prop :=
  Inv State.reset ∧ ∀ p : Params, p.ok = true → Inv (State.resetWith p)

/-- Every step keeps the invariant: memory in canonical form and in range, the receive registers of
10_state.md R28, the transmit registers of R35, the handshake of 41_semaphore.md R143 and the queue
bounds of 40_fifo.md R127, from every state that has it and under every choice of the environment. -/
def Obligations.EveryStepKeepsTheInvariant : Prop :=
  ∀ s t : State, Inv s → step s = .next t → Inv t

/-- From every state with the invariant, a legal next event (30_encoding.md R104) is performed: no fault
and no refusal. -/
def Obligations.LegalEventNeverStops : Prop :=
  ∀ (s : State) (e : Event), Inv s → legal s e = true → ∃ t, perform e s = .next t

/-- An event that is not a legal next event (30_encoding.md R104). Where it schedules a held agent (`step`,
`recv`, `wait` inside a send) it changes nothing; that a hold is such a step is the model's choice (log 7).
Where it cannot occur (`timeout`, R123; `shift`, R241; `txe`, R236) it is refused, and so is `wait` with no
send in flight, which breaks what 43_tx_engine.md R182 requires; these four refusals are the model's choice
(log 8). -/
def Obligations.IllegalEventHoldsOrIsRefused : Prop :=
  ∀ s : State,
    (legal s .step = false → perform .step s = .next s) ∧
    (legal s .recv = false → perform .recv s = .next s) ∧
    (legal s .wait = false → s.txPhase = .waiting → perform .wait s = .next s) ∧
    (legal s .wait = false → s.txPhase = .idle → perform .wait s = .refused .waitOutsideSend) ∧
    (legal s .timeout = false → perform .timeout s = .refused .timeoutWithByteQueued) ∧
    (legal s .shift = false → perform .shift s = .refused .nothingToShift) ∧
    (legal s .txe = false → perform .txe s = .refused .noTxeRequest)

/-- Each operation writes at most the variables its agent owns or shares (10_state.md R20 and R43), for
every instruction and every state. -/
def Obligations.OperationsWriteOnlyWhatTheirAgentOwns : Prop :=
  ∀ (i : Instr) (a : Agent) (s t : State), i.agent = some a → exec i s = .next t →
    writesOnlyOwned a s t

/-- The FIFO law (40_fifo.md R125, 20_memory.md R71 and R72) on every step, by the operation the step
performs. `rawq` gains a byte, at its tail, only from IRQ.RXNE.PUSH and exactly that operation's byte;
loses its head, exactly the byte the operation consumes, only to a byte operation of the receive engine
(which is held if nothing is queued); and is otherwise unchanged. `receive` is given the oldest packet of
`pktq` by LINK.RECV and by nothing else. The packets returned so far followed by those queued gain one
packet, at the end, exactly when RX.CSUM consumes a byte equal to the accumulator with the queue not
full, and it is the packet in the receive registers; otherwise they are unchanged. -/
def Obligations.QueuesAreFirstInFirstOut : Prop :=
  ∀ s t : State, step s = .next t →
    (match scheduled s with
      | some (.irqRxnePush b) => t.rawq = s.rawq ++ [b]
      | some i =>
        match rxByteOf i with
        | some c => s.rawq = c :: t.rawq ∨ (s.rawq = [] ∧ t.rawq = [])
        | none => t.rawq = s.rawq
      | none => t.rawq = s.rawq) ∧
    delivered t =
      delivered s ++ (if scheduled s = some .linkRecv then s.pktq.take 1 else []) ∧
    (if scheduled s = some (.rxCsum s.rxCsum) ∧ s.rawq ≠ [] ∧ s.pktq.length < 2 then
      ∃ p : Packet, delivered t ++ t.pktq = delivered s ++ s.pktq ++ [p] ∧
        p.header = s.rxHeader ∧ p.size = s.rxSize ∧ p.data.length = s.rxSize.toNat ∧
        ∀ (i : Nat) (b : Byte), p.data[i]? = some b → memRead .rxdata i s = .next b
    else delivered t ++ t.pktq = delivered s ++ s.pktq)

/-- Gives and takes (41_semaphore.md R143): as many takes have completed as gives were made, or one fewer
while the semaphore is available; every step keeps this. -/
def Obligations.GivesAndTakesStayBalanced : Prop :=
  (gives State.reset = takes State.reset + (if State.reset.sem then 1 else 0)) ∧
    ∀ s t : State, Inv s → gives s = takes s + (if s.sem then 1 else 0) → step s = .next t →
      gives t = takes t + (if t.sem then 1 else 0)

/-! ## What a send puts on the line -/

/-- A send that starts from a state with the invariant is in flight with nothing but its first byte
written after what was on the line (43_tx_engine.md R181, R183 and R184). -/
def Obligations.SendStartsAfterTheLineIsClear : Prop :=
  ∀ (s t : State) (p : Packet), Inv s → exec (.txSend p) s = .next t →
    lineSent s = s.wireTx ∧ Sending s.wireTx p t

/-- While a send is in flight every step, of any agent, keeps it in flight with exactly the frame's first
`tx_index` bytes written, or completes it with the whole frame on the line after what was there before
(43_tx_engine.md R183). -/
def Obligations.SendInFlightPutsExactlyItsFrameOnTheLine : Prop :=
  ∀ (base : List Byte) (p : Packet) (s t : State), Inv s → Sending base p s → step s = .next t →
    Sending base p t ∨
      (t.txPhase = .idle ∧ t.tdrFull = false ∧ t.wireTx = base ++ frame p.header p.data ∧
        t.outs = s.outs ++ [.sendReturned])

/-- The look-ahead completes the checksum (44_interrupt_handlers.md R205, 70_reset_and_hazards.md R283). An
EMIT of a send in flight advances the index by one, leaves the frame's bytes and the slot's position as
they are, and leaves in the slot the sum of the frame bytes from index 2 to `min(new index, tx_len - 2)`;
the EMIT that makes the index `tx_len - 2`, and each later one, leaves there the checksum of the packet;
and the EMIT at the slot's own position puts that checksum into the data register. -/
def Obligations.LookAheadCompletesTheChecksum : Prop :=
  ∀ (p : Packet) (s t : State), SendInFlight p s → exec .irqTxeEmit s = .next t →
    t.txIndex = s.txIndex + 1 ∧ t.txLen = s.txLen ∧ t.txCpos = s.txCpos ∧
      memHolds t.txBuf 0 (sendImage p) = true ∧
      memGet t.txBuf t.txCpos = some (slotValue p t.txIndex) ∧
      (t.txLen ≤ t.txIndex + 2 →
        memGet t.txBuf t.txCpos = some (csum p.header p.size p.data)) ∧
      (s.txIndex = s.txCpos → t.tdr = csum p.header p.size p.data)

/-- A send run to completion with no other agent interleaved (`xmit`, 30_encoding.md R105): from a state
with the invariant and no send in flight it returns success, with its frame on the line, the semaphore
taken, the data register empty, and the receive side and the queues untouched. -/
def Obligations.UninterruptedSendReturnsWithItsFrameOnTheLine : Prop :=
  ∀ (s : State) (p : Packet), Inv s → s.txPhase = .idle → p.wf = true →
    ∃ t, performAll (.linkSend p :: drain (p.size.toNat + 5) ++ [.wait]) s = .next t ∧
      t.wireTx = s.wireTx ++ frame p.header p.data ∧ t.tdr = csum p.header p.size p.data ∧
      t = { s with
        wireTx := t.wireTx, tdr := t.tdr, txBuf := t.txBuf, txLen := p.size.toNat + 5,
        txCpos := p.size.toNat + 4, txIndex := p.size.toNat + 5, freeCount := s.freeCount + 1,
        outs := t.outs } ∧
      ∃ hint : Bool, t.outs = s.outs ++ [.woken hint, .sendReturned]

/-! ## What the receive engine delivers -/

/-- Round trip (42_rx_framing.md R158): from AwaitFirstStart with `pktq` not full, the bytes of
`frame(h, d)` are consumed by RX.FIRST, RX.SECOND, RX.HEADER, RX.SIZE, one RX.DATA for each data byte and
RX.CSUM; exactly the packet `(h, n, d)` is queued, and the engine hunts again. -/
def Obligations.FramedPacketIsDelivered : Prop :=
  ∀ (s : State) (h : Byte) (d rest : List Byte), d.length ≤ 30 → s.rxState = .awaitFirstStart →
    s.pktq.length < 2 → s.rawq = frame h d ++ rest →
    engineOps (d.length + 5) s =
        [.rxFirstHit, .rxSecondHit, .rxHeader h] ++
          [if d.length = 0 then .rxSizeZero else .rxSizeData (BitVec.ofNat 8 d.length)] ++
          d.map .rxData ++ [.rxCsum (csum h (BitVec.ofNat 8 d.length) d)] ∧
      ∃ t, engineRun (d.length + 5) s = .next t ∧
        t = { s with
          rawq := rest, rxHeader := h, rxSize := BitVec.ofNat 8 d.length, rxIndex := d.length,
          rxCsum := csum h (BitVec.ofNat 8 d.length) d, rxData := t.rxData,
          pktq := s.pktq ++
            [{ header := h, size := BitVec.ofNat 8 d.length, data := d }] }

/-- No start pair, no packet (42_rx_framing.md R159): over bytes with no two consecutive 0xAA the engine
queues nothing and ends in AwaitFirstStart, or in AwaitSecondStart if the last byte is 0xAA. -/
def Obligations.NoStartPairNoPacket : Prop :=
  ∀ (s : State) (bs rest : List Byte), s.rxState = .awaitFirstStart → s.rawq = bs ++ rest →
    (∀ i : Nat, ¬(bs[i]? = some 0xAA#8 ∧ bs[i + 1]? = some 0xAA#8)) →
    ∃ t, engineRun bs.length s = .next t ∧ t.pktq = s.pktq ∧ t.rawq = rest ∧
      t.rxState =
        if bs.getLast? = some 0xAA#8 then .awaitSecondStart else .awaitFirstStart

/-- Corruption of the checksum byte or of one data byte (42_rx_framing.md R160): a frame whose checksum
byte is changed is dropped; a frame one of whose data bytes is changed is dropped unless the change is
between 0x00 and 0xFF, and then it is delivered with the changed byte. The engine hunts again in every case. -/
def Obligations.CorruptedChecksumOrDataByteIsDroppedButForZeroAndAllOnes : Prop :=
  ∀ (s : State) (h : Byte) (d rest : List Byte), d.length ≤ 30 → s.rxState = .awaitFirstStart →
    s.pktq.length < 2 →
    (∀ c : Byte, c ≠ csum h (BitVec.ofNat 8 d.length) d →
      s.rawq = [0xAA#8, 0xAA#8, h, BitVec.ofNat 8 d.length] ++ d ++ c :: rest →
      ∃ t, engineRun (d.length + 5) s = .next t ∧ t.pktq = s.pktq ∧
        t.rxState = .awaitFirstStart ∧ t.rawq = rest) ∧
    (∀ (i : Nat) (x y : Byte), d[i]? = some x → x ≠ y →
      s.rawq = [0xAA#8, 0xAA#8, h, BitVec.ofNat 8 d.length] ++ d.set i y ++
        csum h (BitVec.ofNat 8 d.length) d :: rest →
      ∃ t, engineRun (d.length + 5) s = .next t ∧ t.rxState = .awaitFirstStart ∧ t.rawq = rest ∧
        t.pktq =
          if (x = 0x00#8 ∧ y = 0xFF#8) ∨ (x = 0xFF#8 ∧ y = 0x00#8) then
            s.pktq ++ [{ header := h, size := BitVec.ofNat 8 d.length, data := d.set i y }]
          else s.pktq)

/-- Corruption of the header byte (42_rx_framing.md R160): a frame whose header is changed is dropped
unless the change is between 0x00 and 0xFF, and then it is delivered with the changed header. The engine
hunts again in either case. -/
def Obligations.CorruptedHeaderIsDroppedButForZeroAndAllOnes : Prop :=
  ∀ (s : State) (h g : Byte) (d rest : List Byte), d.length ≤ 30 → s.rxState = .awaitFirstStart →
    s.pktq.length < 2 → h ≠ g →
    s.rawq = [0xAA#8, 0xAA#8, g, BitVec.ofNat 8 d.length] ++ d ++
      csum h (BitVec.ofNat 8 d.length) d :: rest →
    ∃ t, engineRun (d.length + 5) s = .next t ∧ t.rxState = .awaitFirstStart ∧ t.rawq = rest ∧
      t.pktq =
        if (h = 0x00#8 ∧ g = 0xFF#8) ∨ (h = 0xFF#8 ∧ g = 0x00#8) then
          s.pktq ++ [{ header := g, size := BitVec.ofNat 8 d.length, data := d }]
        else s.pktq

/-- Timeout recovery (42_rx_framing.md R161): in whatever state a timeout finds the engine, the frame that
follows is delivered. -/
def Obligations.TimeoutThenFrameIsDelivered : Prop :=
  ∀ (s : State) (h : Byte) (d : List Byte), d.length ≤ 30 → s.rawq = [] → s.pktq.length < 2 →
    ∃ t, perform .timeout s = .next t ∧ t.rxState = .awaitFirstStart ∧ t.pktq = s.pktq ∧
      ∃ u, engineRun (d.length + 5) { t with rawq := frame h d } = .next u ∧
        u.rxState = .awaitFirstStart ∧
        u.pktq = s.pktq ++ [{ header := h, size := BitVec.ofNat 8 d.length, data := d }]
end

