-- ==== Sys2Proof/Laws/State.lean ====
section
/-! SUPPORT. For each named update of the state, what each field reads after it: true by rfl, for simp. -/

namespace Sys2Proof.Machine

/-! ## note -/

@[simp] theorem note_params (n : Note) (s : State) : (note n s).params = s.params := rfl
@[simp] theorem note_rxState (n : Note) (s : State) : (note n s).rxState = s.rxState := rfl
@[simp] theorem note_rxHeader (n : Note) (s : State) : (note n s).rxHeader = s.rxHeader := rfl
@[simp] theorem note_rxSize (n : Note) (s : State) : (note n s).rxSize = s.rxSize := rfl
@[simp] theorem note_rxData (n : Note) (s : State) : (note n s).rxData = s.rxData := rfl
@[simp] theorem note_rxIndex (n : Note) (s : State) : (note n s).rxIndex = s.rxIndex := rfl
@[simp] theorem note_rxCsum (n : Note) (s : State) : (note n s).rxCsum = s.rxCsum := rfl
@[simp] theorem note_txBuf (n : Note) (s : State) : (note n s).txBuf = s.txBuf := rfl
@[simp] theorem note_txIndex (n : Note) (s : State) : (note n s).txIndex = s.txIndex := rfl
@[simp] theorem note_txLen (n : Note) (s : State) : (note n s).txLen = s.txLen := rfl
@[simp] theorem note_txCpos (n : Note) (s : State) : (note n s).txCpos = s.txCpos := rfl
@[simp] theorem note_txPhase (n : Note) (s : State) : (note n s).txPhase = s.txPhase := rfl
@[simp] theorem note_txeIe (n : Note) (s : State) : (note n s).txeIe = s.txeIe := rfl
@[simp] theorem note_rawq (n : Note) (s : State) : (note n s).rawq = s.rawq := rfl
@[simp] theorem note_pktq (n : Note) (s : State) : (note n s).pktq = s.pktq := rfl
@[simp] theorem note_sem (n : Note) (s : State) : (note n s).sem = s.sem := rfl
@[simp] theorem note_tdr (n : Note) (s : State) : (note n s).tdr = s.tdr := rfl
@[simp] theorem note_tdrFull (n : Note) (s : State) : (note n s).tdrFull = s.tdrFull := rfl
@[simp] theorem note_wireTx (n : Note) (s : State) : (note n s).wireTx = s.wireTx := rfl
@[simp] theorem note_notes (n : Note) (s : State) : (note n s).notes = s.notes ++ [n] := rfl
@[simp] theorem note_outs (n : Note) (s : State) : (note n s).outs = s.outs := rfl
@[simp] theorem note_freeCount (n : Note) (s : State) : (note n s).freeCount = s.freeCount := rfl
@[simp] theorem note_script (n : Note) (s : State) : (note n s).script = s.script := rfl

/-! ## output -/

@[simp] theorem output_params (o : Output) (s : State) : (output o s).params = s.params := rfl
@[simp] theorem output_rxState (o : Output) (s : State) : (output o s).rxState = s.rxState := rfl
@[simp] theorem output_rxHeader (o : Output) (s : State) : (output o s).rxHeader = s.rxHeader := rfl
@[simp] theorem output_rxSize (o : Output) (s : State) : (output o s).rxSize = s.rxSize := rfl
@[simp] theorem output_rxData (o : Output) (s : State) : (output o s).rxData = s.rxData := rfl
@[simp] theorem output_rxIndex (o : Output) (s : State) : (output o s).rxIndex = s.rxIndex := rfl
@[simp] theorem output_rxCsum (o : Output) (s : State) : (output o s).rxCsum = s.rxCsum := rfl
@[simp] theorem output_txBuf (o : Output) (s : State) : (output o s).txBuf = s.txBuf := rfl
@[simp] theorem output_txIndex (o : Output) (s : State) : (output o s).txIndex = s.txIndex := rfl
@[simp] theorem output_txLen (o : Output) (s : State) : (output o s).txLen = s.txLen := rfl
@[simp] theorem output_txCpos (o : Output) (s : State) : (output o s).txCpos = s.txCpos := rfl
@[simp] theorem output_txPhase (o : Output) (s : State) : (output o s).txPhase = s.txPhase := rfl
@[simp] theorem output_txeIe (o : Output) (s : State) : (output o s).txeIe = s.txeIe := rfl
@[simp] theorem output_rawq (o : Output) (s : State) : (output o s).rawq = s.rawq := rfl
@[simp] theorem output_pktq (o : Output) (s : State) : (output o s).pktq = s.pktq := rfl
@[simp] theorem output_sem (o : Output) (s : State) : (output o s).sem = s.sem := rfl
@[simp] theorem output_tdr (o : Output) (s : State) : (output o s).tdr = s.tdr := rfl
@[simp] theorem output_tdrFull (o : Output) (s : State) : (output o s).tdrFull = s.tdrFull := rfl
@[simp] theorem output_wireTx (o : Output) (s : State) : (output o s).wireTx = s.wireTx := rfl
@[simp] theorem output_notes (o : Output) (s : State) : (output o s).notes = s.notes := rfl
@[simp] theorem output_outs (o : Output) (s : State) : (output o s).outs = s.outs ++ [o] := rfl
@[simp] theorem output_freeCount (o : Output) (s : State) : (output o s).freeCount = s.freeCount := rfl
@[simp] theorem output_script (o : Output) (s : State) : (output o s).script = s.script := rfl

/-! ## resync -/

@[simp] theorem resync_params (s : State) : (resync s).params = s.params := rfl
@[simp] theorem resync_rxState (s : State) : (resync s).rxState = .awaitFirstStart := rfl
@[simp] theorem resync_rxHeader (s : State) : (resync s).rxHeader = s.rxHeader := rfl
@[simp] theorem resync_rxSize (s : State) : (resync s).rxSize = s.rxSize := rfl
@[simp] theorem resync_rxData (s : State) : (resync s).rxData = s.rxData := rfl
@[simp] theorem resync_rxIndex (s : State) : (resync s).rxIndex = s.rxIndex := rfl
@[simp] theorem resync_rxCsum (s : State) : (resync s).rxCsum = s.rxCsum := rfl
@[simp] theorem resync_txBuf (s : State) : (resync s).txBuf = s.txBuf := rfl
@[simp] theorem resync_txIndex (s : State) : (resync s).txIndex = s.txIndex := rfl
@[simp] theorem resync_txLen (s : State) : (resync s).txLen = s.txLen := rfl
@[simp] theorem resync_txCpos (s : State) : (resync s).txCpos = s.txCpos := rfl
@[simp] theorem resync_txPhase (s : State) : (resync s).txPhase = s.txPhase := rfl
@[simp] theorem resync_txeIe (s : State) : (resync s).txeIe = s.txeIe := rfl
@[simp] theorem resync_rawq (s : State) : (resync s).rawq = s.rawq := rfl
@[simp] theorem resync_pktq (s : State) : (resync s).pktq = s.pktq := rfl
@[simp] theorem resync_sem (s : State) : (resync s).sem = s.sem := rfl
@[simp] theorem resync_tdr (s : State) : (resync s).tdr = s.tdr := rfl
@[simp] theorem resync_tdrFull (s : State) : (resync s).tdrFull = s.tdrFull := rfl
@[simp] theorem resync_wireTx (s : State) : (resync s).wireTx = s.wireTx := rfl
@[simp] theorem resync_notes (s : State) : (resync s).notes = s.notes := rfl
@[simp] theorem resync_outs (s : State) : (resync s).outs = s.outs := rfl
@[simp] theorem resync_freeCount (s : State) : (resync s).freeCount = s.freeCount := rfl
@[simp] theorem resync_script (s : State) : (resync s).script = s.script := rfl

/-! ## semGive -/

@[simp] theorem semGive_params (s : State) : (semGive s).params = s.params := rfl
@[simp] theorem semGive_rxState (s : State) : (semGive s).rxState = s.rxState := rfl
@[simp] theorem semGive_rxHeader (s : State) : (semGive s).rxHeader = s.rxHeader := rfl
@[simp] theorem semGive_rxSize (s : State) : (semGive s).rxSize = s.rxSize := rfl
@[simp] theorem semGive_rxData (s : State) : (semGive s).rxData = s.rxData := rfl
@[simp] theorem semGive_rxIndex (s : State) : (semGive s).rxIndex = s.rxIndex := rfl
@[simp] theorem semGive_rxCsum (s : State) : (semGive s).rxCsum = s.rxCsum := rfl
@[simp] theorem semGive_txBuf (s : State) : (semGive s).txBuf = s.txBuf := rfl
@[simp] theorem semGive_txIndex (s : State) : (semGive s).txIndex = s.txIndex := rfl
@[simp] theorem semGive_txLen (s : State) : (semGive s).txLen = s.txLen := rfl
@[simp] theorem semGive_txCpos (s : State) : (semGive s).txCpos = s.txCpos := rfl
@[simp] theorem semGive_txPhase (s : State) : (semGive s).txPhase = s.txPhase := rfl
@[simp] theorem semGive_txeIe (s : State) : (semGive s).txeIe = s.txeIe := rfl
@[simp] theorem semGive_rawq (s : State) : (semGive s).rawq = s.rawq := rfl
@[simp] theorem semGive_pktq (s : State) : (semGive s).pktq = s.pktq := rfl
@[simp] theorem semGive_sem (s : State) : (semGive s).sem = true := rfl
@[simp] theorem semGive_tdr (s : State) : (semGive s).tdr = s.tdr := rfl
@[simp] theorem semGive_tdrFull (s : State) : (semGive s).tdrFull = s.tdrFull := rfl
@[simp] theorem semGive_wireTx (s : State) : (semGive s).wireTx = s.wireTx := rfl
@[simp] theorem semGive_notes (s : State) : (semGive s).notes = s.notes := rfl
@[simp] theorem semGive_outs (s : State) : (semGive s).outs = s.outs ++ [.woken (Config.wokenHint s.freeCount)] := rfl
@[simp] theorem semGive_freeCount (s : State) : (semGive s).freeCount = s.freeCount + 1 := rfl
@[simp] theorem semGive_script (s : State) : (semGive s).script = s.script := rfl

/-! ## acceptSize -/

@[simp] theorem acceptSize_params (c : Byte) (s : State) : (acceptSize c s).params = s.params := rfl
@[simp] theorem acceptSize_rxState (c : Byte) (s : State) : (acceptSize c s).rxState = s.rxState := rfl
@[simp] theorem acceptSize_rxHeader (c : Byte) (s : State) : (acceptSize c s).rxHeader = s.rxHeader := rfl
@[simp] theorem acceptSize_rxSize (c : Byte) (s : State) : (acceptSize c s).rxSize = c := rfl
@[simp] theorem acceptSize_rxData (c : Byte) (s : State) : (acceptSize c s).rxData = s.rxData := rfl
@[simp] theorem acceptSize_rxIndex (c : Byte) (s : State) : (acceptSize c s).rxIndex = 0 := rfl
@[simp] theorem acceptSize_rxCsum (c : Byte) (s : State) : (acceptSize c s).rxCsum = fold s.rxCsum c := rfl
@[simp] theorem acceptSize_txBuf (c : Byte) (s : State) : (acceptSize c s).txBuf = s.txBuf := rfl
@[simp] theorem acceptSize_txIndex (c : Byte) (s : State) : (acceptSize c s).txIndex = s.txIndex := rfl
@[simp] theorem acceptSize_txLen (c : Byte) (s : State) : (acceptSize c s).txLen = s.txLen := rfl
@[simp] theorem acceptSize_txCpos (c : Byte) (s : State) : (acceptSize c s).txCpos = s.txCpos := rfl
@[simp] theorem acceptSize_txPhase (c : Byte) (s : State) : (acceptSize c s).txPhase = s.txPhase := rfl
@[simp] theorem acceptSize_txeIe (c : Byte) (s : State) : (acceptSize c s).txeIe = s.txeIe := rfl
@[simp] theorem acceptSize_rawq (c : Byte) (s : State) : (acceptSize c s).rawq = s.rawq := rfl
@[simp] theorem acceptSize_pktq (c : Byte) (s : State) : (acceptSize c s).pktq = s.pktq := rfl
@[simp] theorem acceptSize_sem (c : Byte) (s : State) : (acceptSize c s).sem = s.sem := rfl
@[simp] theorem acceptSize_tdr (c : Byte) (s : State) : (acceptSize c s).tdr = s.tdr := rfl
@[simp] theorem acceptSize_tdrFull (c : Byte) (s : State) : (acceptSize c s).tdrFull = s.tdrFull := rfl
@[simp] theorem acceptSize_wireTx (c : Byte) (s : State) : (acceptSize c s).wireTx = s.wireTx := rfl
@[simp] theorem acceptSize_notes (c : Byte) (s : State) : (acceptSize c s).notes = s.notes := rfl
@[simp] theorem acceptSize_outs (c : Byte) (s : State) : (acceptSize c s).outs = s.outs := rfl
@[simp] theorem acceptSize_freeCount (c : Byte) (s : State) : (acceptSize c s).freeCount = s.freeCount := rfl
@[simp] theorem acceptSize_script (c : Byte) (s : State) : (acceptSize c s).script = s.script := rfl

/-! ## setCells_txbuf -/

@[simp] theorem setCells_txbuf_params (m : Memory) (s : State) : (setCells s .txbuf m).params = s.params := rfl
@[simp] theorem setCells_txbuf_rxState (m : Memory) (s : State) : (setCells s .txbuf m).rxState = s.rxState := rfl
@[simp] theorem setCells_txbuf_rxHeader (m : Memory) (s : State) : (setCells s .txbuf m).rxHeader = s.rxHeader := rfl
@[simp] theorem setCells_txbuf_rxSize (m : Memory) (s : State) : (setCells s .txbuf m).rxSize = s.rxSize := rfl
@[simp] theorem setCells_txbuf_rxData (m : Memory) (s : State) : (setCells s .txbuf m).rxData = s.rxData := rfl
@[simp] theorem setCells_txbuf_rxIndex (m : Memory) (s : State) : (setCells s .txbuf m).rxIndex = s.rxIndex := rfl
@[simp] theorem setCells_txbuf_rxCsum (m : Memory) (s : State) : (setCells s .txbuf m).rxCsum = s.rxCsum := rfl
@[simp] theorem setCells_txbuf_txBuf (m : Memory) (s : State) : (setCells s .txbuf m).txBuf = m := rfl
@[simp] theorem setCells_txbuf_txIndex (m : Memory) (s : State) : (setCells s .txbuf m).txIndex = s.txIndex := rfl
@[simp] theorem setCells_txbuf_txLen (m : Memory) (s : State) : (setCells s .txbuf m).txLen = s.txLen := rfl
@[simp] theorem setCells_txbuf_txCpos (m : Memory) (s : State) : (setCells s .txbuf m).txCpos = s.txCpos := rfl
@[simp] theorem setCells_txbuf_txPhase (m : Memory) (s : State) : (setCells s .txbuf m).txPhase = s.txPhase := rfl
@[simp] theorem setCells_txbuf_txeIe (m : Memory) (s : State) : (setCells s .txbuf m).txeIe = s.txeIe := rfl
@[simp] theorem setCells_txbuf_rawq (m : Memory) (s : State) : (setCells s .txbuf m).rawq = s.rawq := rfl
@[simp] theorem setCells_txbuf_pktq (m : Memory) (s : State) : (setCells s .txbuf m).pktq = s.pktq := rfl
@[simp] theorem setCells_txbuf_sem (m : Memory) (s : State) : (setCells s .txbuf m).sem = s.sem := rfl
@[simp] theorem setCells_txbuf_tdr (m : Memory) (s : State) : (setCells s .txbuf m).tdr = s.tdr := rfl
@[simp] theorem setCells_txbuf_tdrFull (m : Memory) (s : State) : (setCells s .txbuf m).tdrFull = s.tdrFull := rfl
@[simp] theorem setCells_txbuf_wireTx (m : Memory) (s : State) : (setCells s .txbuf m).wireTx = s.wireTx := rfl
@[simp] theorem setCells_txbuf_notes (m : Memory) (s : State) : (setCells s .txbuf m).notes = s.notes := rfl
@[simp] theorem setCells_txbuf_outs (m : Memory) (s : State) : (setCells s .txbuf m).outs = s.outs := rfl
@[simp] theorem setCells_txbuf_freeCount (m : Memory) (s : State) : (setCells s .txbuf m).freeCount = s.freeCount := rfl
@[simp] theorem setCells_txbuf_script (m : Memory) (s : State) : (setCells s .txbuf m).script = s.script := rfl

/-! ## setCells_rxdata -/

@[simp] theorem setCells_rxdata_params (m : Memory) (s : State) : (setCells s .rxdata m).params = s.params := rfl
@[simp] theorem setCells_rxdata_rxState (m : Memory) (s : State) : (setCells s .rxdata m).rxState = s.rxState := rfl
@[simp] theorem setCells_rxdata_rxHeader (m : Memory) (s : State) : (setCells s .rxdata m).rxHeader = s.rxHeader := rfl
@[simp] theorem setCells_rxdata_rxSize (m : Memory) (s : State) : (setCells s .rxdata m).rxSize = s.rxSize := rfl
@[simp] theorem setCells_rxdata_rxData (m : Memory) (s : State) : (setCells s .rxdata m).rxData = m := rfl
@[simp] theorem setCells_rxdata_rxIndex (m : Memory) (s : State) : (setCells s .rxdata m).rxIndex = s.rxIndex := rfl
@[simp] theorem setCells_rxdata_rxCsum (m : Memory) (s : State) : (setCells s .rxdata m).rxCsum = s.rxCsum := rfl
@[simp] theorem setCells_rxdata_txBuf (m : Memory) (s : State) : (setCells s .rxdata m).txBuf = s.txBuf := rfl
@[simp] theorem setCells_rxdata_txIndex (m : Memory) (s : State) : (setCells s .rxdata m).txIndex = s.txIndex := rfl
@[simp] theorem setCells_rxdata_txLen (m : Memory) (s : State) : (setCells s .rxdata m).txLen = s.txLen := rfl
@[simp] theorem setCells_rxdata_txCpos (m : Memory) (s : State) : (setCells s .rxdata m).txCpos = s.txCpos := rfl
@[simp] theorem setCells_rxdata_txPhase (m : Memory) (s : State) : (setCells s .rxdata m).txPhase = s.txPhase := rfl
@[simp] theorem setCells_rxdata_txeIe (m : Memory) (s : State) : (setCells s .rxdata m).txeIe = s.txeIe := rfl
@[simp] theorem setCells_rxdata_rawq (m : Memory) (s : State) : (setCells s .rxdata m).rawq = s.rawq := rfl
@[simp] theorem setCells_rxdata_pktq (m : Memory) (s : State) : (setCells s .rxdata m).pktq = s.pktq := rfl
@[simp] theorem setCells_rxdata_sem (m : Memory) (s : State) : (setCells s .rxdata m).sem = s.sem := rfl
@[simp] theorem setCells_rxdata_tdr (m : Memory) (s : State) : (setCells s .rxdata m).tdr = s.tdr := rfl
@[simp] theorem setCells_rxdata_tdrFull (m : Memory) (s : State) : (setCells s .rxdata m).tdrFull = s.tdrFull := rfl
@[simp] theorem setCells_rxdata_wireTx (m : Memory) (s : State) : (setCells s .rxdata m).wireTx = s.wireTx := rfl
@[simp] theorem setCells_rxdata_notes (m : Memory) (s : State) : (setCells s .rxdata m).notes = s.notes := rfl
@[simp] theorem setCells_rxdata_outs (m : Memory) (s : State) : (setCells s .rxdata m).outs = s.outs := rfl
@[simp] theorem setCells_rxdata_freeCount (m : Memory) (s : State) : (setCells s .rxdata m).freeCount = s.freeCount := rfl
@[simp] theorem setCells_rxdata_script (m : Memory) (s : State) : (setCells s .rxdata m).script = s.script := rfl

end Sys2Proof.Machine
end

