-- ==== Sys2Proof/Laws/Memory.lean ====
section
/-! SUPPORT. The laws of memory: a read after a write, the canonical form, and what the memory primitives
can answer. -/

namespace Sys2Proof.Machine

theorem memGet_memPut_same (m : Memory) (a : Nat) (v : Byte) : memGet (memPut m a v) a = some v := by
  induction m with
  | nil => simp [memPut, memGet]
  | cons c m ih =>
    simp only [memPut]
    split
    · simp [memGet]
    · split
      · simp [memGet]
      · rename_i h1 h2
        simp [memGet, ih, Ne.symm h2]

theorem memGet_memPut_ne (m : Memory) {a b : Nat} (v : Byte) (h : b ≠ a) :
    memGet (memPut m a v) b = memGet m b := by
  induction m with
  | nil => simp [memPut, memGet, Ne.symm h]
  | cons c m ih =>
    simp only [memPut]
    split
    · simp [memGet, Ne.symm h]
    · split
      · rename_i h1 h2
        subst h2
        simp [memGet, Ne.symm h]
      · simp [memGet, ih]

theorem memGet_memPut (m : Memory) (a b : Nat) (v : Byte) :
    memGet (memPut m a v) b = if b = a then some v else memGet m b := by
  split
  · rename_i h
    rw [h, memGet_memPut_same]
  · rename_i h
    exact memGet_memPut_ne m v h

theorem risingFrom_memPut {lo : Nat} {m : Memory} {a : Nat} (v : Byte)
    (h : risingFrom lo m = true) (hlo : lo ≤ a) : risingFrom lo (memPut m a v) = true := by
  induction m generalizing lo with
  | nil => simp [memPut, risingFrom, hlo]
  | cons c m ih =>
    simp only [risingFrom, Bool.and_eq_true, decide_eq_true_eq] at h
    simp only [memPut]
    split
    · rename_i h1
      simp only [risingFrom, Bool.and_eq_true, decide_eq_true_eq]
      exact ⟨hlo, h1, h.2⟩
    · split
      · rename_i h1 h2
        subst h2
        simp [risingFrom, h]
      · rename_i h1 h2
        simp only [risingFrom, Bool.and_eq_true, decide_eq_true_eq]
        exact ⟨h.1, ih h.2 (by omega)⟩

/-- Every write keeps the canonical form. -/
theorem memPut_wf {m : Memory} (a : Nat) (v : Byte) (h : Memory.wf m = true) :
    Memory.wf (memPut m a v) = true := risingFrom_memPut v h (Nat.zero_le a)

theorem below_memPut {n : Nat} {m : Memory} {a : Nat} (v : Byte) (h : below n m = true)
    (ha : a < n) : below n (memPut m a v) = true := by
  induction m with
  | nil => simp [memPut, below, ha]
  | cons c m ih =>
    simp only [below, List.all_cons, Bool.and_eq_true, decide_eq_true_eq] at h ih
    simp only [memPut]
    split
    · simp [below, ha, h.1, h.2]
    · split
      · simp [below, ha, h.2]
      · simpa [below, h.1] using ih h.2

theorem memHolds_iff (m : Memory) (a : Nat) (bs : List Byte) :
    memHolds m a bs = true ↔ ∀ i b, bs[i]? = some b → memGet m (a + i) = some b := by
  induction bs generalizing a with
  | nil => simp [memHolds]
  | cons c bs ih =>
    simp only [memHolds, Bool.and_eq_true, decide_eq_true_eq, ih]
    constructor
    · rintro ⟨h0, h1⟩ i b hb
      cases i with
      | zero => simpa using hb ▸ h0
      | succ i =>
        have := h1 i b (by simpa using hb)
        rwa [Nat.add_assoc, Nat.add_comm 1 i] at this
    · intro h
      refine ⟨by simpa using h 0 c rfl, fun i b hb => ?_⟩
      have := h (i + 1) b (by simpa using hb)
      rwa [Nat.add_assoc, Nat.add_comm 1 i]

@[simp] theorem cells_setCells (s : State) (sp : Space) (m : Memory) :
    cells (setCells s sp m) sp = m := by cases sp <;> rfl

@[simp] theorem setCells_setCells (s : State) (sp : Space) (m n : Memory) :
    setCells (setCells s sp m) sp n = setCells s sp n := by cases sp <;> rfl

@[simp] theorem setCells_cells (s : State) (sp : Space) : setCells s sp (cells s sp) = s := by
  cases sp <;> rfl

@[simp] theorem spaceSize_setCells (s : State) (sp sq : Space) (m : Memory) :
    spaceSize (setCells s sp m) sq = spaceSize s sq := by cases sp <;> cases sq <;> rfl

/-- Everything a read can answer with: a written cell inside its space. -/
theorem memRead_next_iff (sp : Space) (a : Nat) (s : State) (v : Byte) :
    memRead sp a s = .next v ↔ a < spaceSize s sp ∧ memGet (cells s sp) a = some v := by
  unfold memRead
  split
  · rename_i h
    split
    · rename_i w hw
      constructor
      · intro he
        cases he
        exact ⟨h, hw⟩
      · rintro ⟨-, he⟩
        rw [hw] at he
        cases he
        rfl
    · rename_i hw
      simp [hw]
  · rename_i h
    simp [h]

/-- Everything a write can answer with: the one cell written, inside its space. -/
theorem memWrite_next_iff (sp : Space) (a : Nat) (v : Byte) (s t : State) :
    memWrite sp a v s = .next t ↔
      a < spaceSize s sp ∧ t = setCells s sp (memPut (cells s sp) a v) := by
  unfold memWrite
  split
  · rename_i h
    constructor
    · intro he
      cases he
      exact ⟨h, rfl⟩
    · rintro ⟨-, rfl⟩
      rfl
  · rename_i h
    simp [h]

/-- A write keeps the canonical form of the space it writes. -/
theorem memWrite_keeps_wf {sp : Space} {a : Nat} {v : Byte} {s t : State}
    (h : memWrite sp a v s = .next t) (hw : Memory.wf (cells s sp) = true) :
    Memory.wf (cells t sp) = true := by
  obtain ⟨-, rfl⟩ := (memWrite_next_iff sp a v s t).1 h
  simpa using memPut_wf a v hw

/-- The memory after reset is in canonical form. -/
theorem reset_memory_wf (p : Params) :
    Memory.wf (State.resetWith p).txBuf = true ∧ Memory.wf (State.resetWith p).rxData = true :=
  ⟨rfl, rfl⟩

end Sys2Proof.Machine
end

