-- ==== Sys2Proof/Laws/Ops.lean ====
section
/-! SUPPORT. For each shared operation, everything it can do, said once. -/

namespace Sys2Proof.Machine

@[simp] theorem andThen_next {α β : Type} (a : α) (k : α → Out β) :
    andThen (.next a) k = k a := rfl

@[simp] theorem andThen_fault {α β : Type} (r : Fault) (k : α → Out β) :
    andThen (.fault r) k = .fault r := rfl

@[simp] theorem andThen_refused {α β : Type} (r : Refusal) (k : α → Out β) :
    andThen (.refused r) k = .refused r := rfl

theorem andThen_eq_next_iff {α β : Type} (o : Out α) (k : α → Out β) (b : β) :
    andThen o k = .next b ↔ ∃ a, o = .next a ∧ k a = .next b := by
  cases o <;> simp

@[simp] theorem inHandler_eq (op : State → Out State) (s : State) : inHandler op s = op s := by
  simp only [inHandler, handlerEntry, handlerReturn]
  cases op s <;> rfl

/-- A pop with timeout: a byte taken, a timeout with nothing queued, or a hold that changes nothing. -/
theorem popT_next {timedOut : Bool} {s t : State} {k : Option Byte → State → Out State}
    (h : popT timedOut s k = .next t) :
    (∃ v q, s.rawq = v :: q ∧ timedOut = false ∧ k (some v) { s with rawq := q } = .next t) ∨
      (s.rawq = [] ∧ timedOut = true ∧ k none s = .next t) ∨
      (s.rawq = [] ∧ timedOut = false ∧ t = s) := by
  unfold popT at h
  split at h
  · rename_i v q hq
    exact .inl ⟨v, q, hq, rfl, h⟩
  · cases h
  · rename_i hq
    exact .inr (.inl ⟨hq, rfl, h⟩)
  · rename_i hq
    cases h
    exact .inr (.inr ⟨hq, rfl, rfl⟩)

/-- A pop without timeout: the oldest packet taken, or a hold that changes nothing. -/
theorem popInf_next {s t : State} {k : Packet → State → Out State} (h : popInf s k = .next t) :
    (∃ p q, s.pktq = p :: q ∧ k p { s with pktq := q } = .next t) ∨ (s.pktq = [] ∧ t = s) := by
  unfold popInf at h
  split at h
  · rename_i p q hq
    exact .inl ⟨p, q, hq, h⟩
  · rename_i hq
    cases h
    exact .inr ⟨hq, rfl⟩

/-- A take: an available semaphore taken, or a hold that changes nothing. -/
theorem semTake_next {s t : State} {k : State → Out State} (h : semTake s k = .next t) :
    (s.sem = true ∧ k { s with sem := false } = .next t) ∨ (s.sem = false ∧ t = s) := by
  unfold semTake semAvail at h
  split at h
  · rename_i hs
    exact .inl ⟨hs, h⟩
  · rename_i hs
    cases h
    exact .inr ⟨by simpa using hs, rfl⟩

/-- A write of the data register: only while it is empty. -/
theorem tdrWrite_next_iff (b : Byte) (s t : State) :
    tdrWrite b s = .next t ↔ s.tdrFull = false ∧ t = { s with tdr := b, tdrFull := true } := by
  unfold tdrWrite
  cases h : s.tdrFull <;> simp [eq_comm]

/-- A push from interrupt context: appended, or dropped with EV5 when full. -/
theorem pushIsr_cases (v : Byte) (s : State) :
    (rawqFull s = false ∧ pushIsr v s = { s with rawq := s.rawq ++ [v] }) ∨
      (rawqFull s = true ∧ pushIsr v s = note (.ev5 v) s) := by
  unfold pushIsr
  cases rawqFull s <;> simp

/-- A push from task context: appended, or dropped with EV6 when full. -/
theorem pushNb_cases (p : Packet) (s : State) :
    (pktqFull s = false ∧ pushNb p s = { s with pktq := s.pktq ++ [p] }) ∨
      (pktqFull s = true ∧ pushNb p s = note (.ev6 p) s) := by
  unfold pushNb
  cases pktqFull s <;> simp

/-- A byte step of the receive engine: the selected operation on the popped state, or a hold. -/
theorem rxByte_next {mnemonic : String} {want : RxState} {c : Byte} {ok : Bool}
    {k : State → Out State} {s t : State} (h : rxByte mnemonic want c ok k s = .next t) :
    (∃ q, s.rawq = c :: q ∧ s.rxState = want ∧ ok = true ∧ k { s with rawq := q } = .next t) ∨
      (s.rawq = [] ∧ t = s) := by
  unfold rxByte at h
  rcases popT_next h with ⟨v, q, hq, -, hk⟩ | ⟨-, hf, -⟩ | ⟨hq, -, ht⟩
  · split at hk
    · rename_i hc
      obtain ⟨hv, hw, ho⟩ := hc
      cases hv
      exact .inl ⟨q, hq, hw, ho, hk⟩
    · cases hk
  · cases hf
  · exact .inr ⟨hq, ht⟩

/-- A byte step of the receive engine on the operation the table selects. -/
theorem rxByte_selected {mnemonic : String} {want : RxState} {c : Byte} {ok : Bool}
    {k : State → Out State} {s : State} {q : List Byte} (hq : s.rawq = c :: q)
    (hw : s.rxState = want) (ho : ok = true) :
    rxByte mnemonic want c ok k s = k { s with rawq := q } := by
  unfold rxByte popT
  simp [hq, hw, ho]

/-- Reading consecutive cells: all of them written and inside the space. -/
theorem memReadList_next_iff (sp : Space) (a n : Nat) (s : State) (bs : List Byte) :
    memReadList sp a n s = .next bs ↔
      bs.length = n ∧ memHolds (cells s sp) a bs = true ∧ (n = 0 ∨ a + n ≤ spaceSize s sp) := by
  induction n generalizing a bs with
  | zero =>
    cases bs with
    | nil => simp [memReadList, memHolds]
    | cons b bs => simp [memReadList]
  | succ n ih =>
    simp only [memReadList, andThen_eq_next_iff, memRead_next_iff, ih]
    constructor
    · rintro ⟨v, ⟨hlt, hv⟩, vs, ⟨hl, hh, hr⟩, he⟩
      cases he
      refine ⟨by simp [hl], by simp [memHolds, hv, hh], .inr ?_⟩
      rcases hr with rfl | hr <;> omega
    · rintro ⟨hl, hh, hr⟩
      cases bs with
      | nil => simp at hl
      | cons b bs =>
        simp only [memHolds, Bool.and_eq_true, decide_eq_true_eq] at hh
        simp only [List.length_cons, Nat.add_right_cancel_iff] at hl
        exact ⟨b, ⟨by omega, hh.1⟩, bs, ⟨hl, hh.2, by omega⟩, rfl⟩

/-- The cells after a run of bytes is written from address `a` on. -/
def memPutList (m : Memory) (a : Nat) : List Byte → Memory
  | [] => m
  | b :: bs => memPutList (memPut m a b) (a + 1) bs

/-- What a run of writes leaves at each address. -/
theorem memGet_memPutList (m : Memory) (a : Nat) (bs : List Byte) (x : Nat) :
    memGet (memPutList m a bs) x =
      if a ≤ x ∧ x < a + bs.length then bs[x - a]? else memGet m x := by
  induction bs generalizing m a with
  | nil =>
    simp only [memPutList, List.length_nil, Nat.add_zero]
    split
    · omega
    · rfl
  | cons b bs ih =>
    simp only [memPutList, ih, memGet_memPut, List.length_cons]
    split
    · rename_i h
      rw [if_pos (by omega)]
      have : x - a = (x - (a + 1)) + 1 := by omega
      simp [this]
    · rename_i h
      split
      · rename_i hx
        subst hx
        rw [if_pos (by omega)]
        simp
      · rename_i hx
        rw [if_neg (by omega)]

theorem memPutList_wf {m : Memory} (a : Nat) (bs : List Byte) (h : Memory.wf m = true) :
    Memory.wf (memPutList m a bs) = true := by
  induction bs generalizing m a with
  | nil => exact h
  | cons b bs ih => exact ih (a + 1) (memPut_wf a b h)

theorem below_memPutList {n : Nat} {m : Memory} {a : Nat} {bs : List Byte}
    (h : below n m = true) (hr : a + bs.length ≤ n) : below n (memPutList m a bs) = true := by
  induction bs generalizing m a with
  | nil => exact h
  | cons b bs ih =>
    simp only [List.length_cons] at hr
    exact ih (below_memPut b h (by omega)) (by omega)

theorem memHolds_memPutList (m : Memory) (a : Nat) (bs : List Byte) :
    memHolds (memPutList m a bs) a bs = true := by
  rw [memHolds_iff]
  intro i b hb
  have hi : i < bs.length := by
    rcases Nat.lt_or_ge i bs.length with h | h
    · exact h
    · rw [List.getElem?_eq_none h] at hb
      cases hb
  rw [memGet_memPutList, if_pos (by omega)]
  simpa using hb

/-- Writing consecutive cells: all of them inside the space. -/
theorem memWriteList_next_iff (sp : Space) (a : Nat) (bs : List Byte) (s t : State) :
    memWriteList sp a bs s = .next t ↔
      (bs = [] ∨ a + bs.length ≤ spaceSize s sp) ∧
        t = setCells s sp (memPutList (cells s sp) a bs) := by
  induction bs generalizing a s with
  | nil => simp [memWriteList, memPutList, eq_comm]
  | cons b bs ih =>
    simp only [memWriteList, andThen_eq_next_iff, memWrite_next_iff, ih]
    constructor
    · rintro ⟨s1, ⟨hlt, rfl⟩, hr, rfl⟩
      refine ⟨.inr ?_, by simp [memPutList]⟩
      rcases hr with rfl | hr
      · simpa using hlt
      · simp only [spaceSize_setCells] at hr
        simp only [List.length_cons]
        omega
    · rintro ⟨hr, rfl⟩
      simp only [List.length_cons, reduceCtorEq, false_or] at hr
      exact ⟨_, ⟨by omega, rfl⟩, .inr (by simp only [spaceSize_setCells]; omega),
        by simp [memPutList]⟩

/-- The packet in the receive registers: header, size and as many written data bytes. -/
theorem assemblePacket_next_iff (s : State) (p : Packet) :
    assemblePacket s = .next p ↔
      p.header = s.rxHeader ∧ p.size = s.rxSize ∧ p.data.length = s.rxSize.toNat ∧
        memHolds s.rxData 0 p.data = true ∧
        (s.rxSize.toNat = 0 ∨ s.rxSize.toNat ≤ Config.maxData) := by
  simp only [assemblePacket, andThen_eq_next_iff, memReadList_next_iff, Nat.zero_add]
  constructor
  · rintro ⟨d, ⟨hl, hh, hr⟩, he⟩
    cases he
    exact ⟨rfl, rfl, hl, hh, hr⟩
  · rintro ⟨hh, hs, hl, hm, hr⟩
    refine ⟨p.data, ⟨hl, hm, hr⟩, ?_⟩
    rw [← hh, ← hs]

/-- The look-ahead accumulation: one cell, the checksum slot, or nothing. -/
theorem lookAhead_next_iff (s t : State) :
    lookAhead s = .next t ↔
      (accumulates s.txIndex s.txLen = true ∧
        ∃ slot b, memGet s.txBuf s.txCpos = some slot ∧ memGet s.txBuf s.txIndex = some b ∧
          s.txCpos < s.params.txBufCap ∧ s.txIndex < s.params.txBufCap ∧
          t = { s with txBuf := memPut s.txBuf s.txCpos (fold slot b) }) ∨
      (accumulates s.txIndex s.txLen = false ∧ t = s) := by
  unfold lookAhead
  split
  · rename_i h
    simp only [andThen_eq_next_iff, memRead_next_iff, memWrite_next_iff, h, true_and,
      Bool.true_eq_false, false_and, or_false]
    constructor
    · rintro ⟨slot, ⟨hc, hs⟩, b, ⟨hi, hb⟩, -, rfl⟩
      exact ⟨slot, b, hs, hb, hc, hi, rfl⟩
    · rintro ⟨slot, b, hs, hb, hc, hi, rfl⟩
      exact ⟨slot, ⟨hc, hs⟩, b, ⟨hi, hb⟩, hc, rfl⟩
  · rename_i h
    simp [h, eq_comm]

/-- Everything TX.SEND can answer with: no send in flight, a well-formed packet, the buffer large enough,
the data register empty; the frame image with a zero checksum slot, the registers of R181. -/
theorem txSendOp_next_iff (p : Packet) (s t : State) :
    txSendOp p s = .next t ↔
      s.txPhase = .idle ∧ p.wf = true ∧ txLenOf p.size ≤ s.params.txBufCap ∧
        s.tdrFull = false ∧
        t = { s with
          txBuf := memPut (memPutList s.txBuf 0 (sendImage p)) (txCposOf (txLenOf p.size)) 0,
          txLen := txLenOf p.size, txCpos := txCposOf (txLenOf p.size), txIndex := 1,
          txeIe := true, txPhase := .waiting, tdr := Config.startByte, tdrFull := true } := by
  unfold txSendOp
  by_cases hp : s.txPhase = .idle
  case neg => simp [hp]
  by_cases hw : p.wf = true
  case neg => simp [hw, hp]
  have hlen : (sendImage p).length = p.size.toNat + 4 := by
    simp only [Packet.wf, Bool.and_eq_true, decide_eq_true_eq] at hw
    simp [sendImage, hw.2]
  have hne : sendImage p ≠ [] := by simp [sendImage]
  have hfirst : ∀ m : Memory,
      memGet (memPut (memPutList m 0 (sendImage p)) (txCposOf (txLenOf p.size)) 0) 0 =
        some Config.startByte := by
    intro m
    rw [memGet_memPut_ne _ _ (by simp [txCposOf, txLenOf, Config.overhead]), memGet_memPutList,
      if_pos (by omega)]
    simp [sendImage]
  simp only [hp, hw, ne_eq, not_true_eq_false, if_false, Bool.true_eq_false, andThen_eq_next_iff,
    memWriteList_next_iff, memWrite_next_iff, memRead_next_iff, tdrWrite_next_iff, hne, false_or,
    true_and, hlen]
  constructor
  · rintro ⟨s1, ⟨hr, rfl⟩, s4, ⟨hc, rfl⟩, first, ⟨-, hf⟩, s5, ⟨hfull, rfl⟩, he⟩
    have : first = Config.startByte := by
      have := hfirst s.txBuf
      simp only [cells, setCells] at hf this
      rw [this] at hf
      exact (Option.some.inj hf).symm
    subst this
    cases he
    refine ⟨?_, hfull, rfl⟩
    simp only [spaceSize, setCells, txCposOf, txLenOf, Config.overhead] at hc ⊢
    omega
  · rintro ⟨hcap, hfull, rfl⟩
    simp only [txLenOf, Config.overhead] at hcap
    refine ⟨_, ⟨by simp only [spaceSize]; omega, rfl⟩, _, ⟨?_, rfl⟩, Config.startByte,
      ⟨?_, ?_⟩, _, ⟨hfull, rfl⟩, rfl⟩
    · simp only [spaceSize, setCells, txCposOf, txLenOf, Config.overhead]
      omega
    · simp only [spaceSize, setCells]
      omega
    · exact hfirst s.txBuf

end Sys2Proof.Machine
end

