-- ==== Sys2Proof/Laws/PerInstr.lean ====
section
/-! SUPPORT. The per-instruction family `EncodeRow`: the word of a well-formed instruction is accepted by
its own row of the opcode table, mask, match value and constraint (30_encoding.md R97 and R98). -/

namespace Sys2Proof

/-- The field `SW[7:0]` of a word is the byte it was built from. -/
theorem swC_selWord (ev : BitVec 4) (g : BitVec 1) (s : BitVec 3) (c : Byte) :
    swC (selWord ev g s c) = c := by
  apply BitVec.eq_of_getLsbD_eq
  intro i hi
  rw [swC, selWord, BitVec.getLsbD_extractLsb', BitVec.getLsbD_append]
  simp [hi]

/-- Masking a word by a mask over its upper byte alone leaves the upper byte's masked bits. -/
theorem selWord_and_upper (ev : BitVec 4) (g : BitVec 1) (s : BitVec 3) (c m : Byte) :
    selWord ev g s c &&& (m ++ 0#8) = ((ev ++ g ++ s) &&& m) ++ 0#8 := by
  apply BitVec.eq_of_getLsbD_eq
  intro i hi
  simp only [selWord, BitVec.getLsbD_and, BitVec.getLsbD_append]
  split <;> simp

namespace Laws.EncodeRow

/-- The row of an instruction accepts its word. -/
def Statement (i : Instr) : Prop :=
  i.wf = true →
    ∃ r ∈ selectionTable ++ primitiveTable, r.mnemonic = i.mnemonic ∧ r.accepts (encodeWord i) = true

/-- A row whose mask covers the upper byte only accepts a word by its upper byte and its constraint. -/
theorem accepts_upper {r : TableRow} {ev : BitVec 4} {g : BitVec 1} {s : BitVec 3} {c m v : Byte}
    (hm : r.mask = m ++ 0#8) (hv : r.value = v ++ 0#8) (he : (ev ++ g ++ s) &&& m = v)
    (hc : r.constraint c = true) : r.accepts (selWord ev g s c) = true := by
  simp only [TableRow.accepts, swC_selWord, hc, hm, hv, selWord_and_upper, he, beq_self_eq_true,
    Bool.and_self]

theorem rxFirstHit : Statement .rxFirstHit :=
  fun _ => ⟨(selectionTable ++ primitiveTable)[0], List.getElem_mem (by decide), rfl, rfl⟩

theorem rxFirstMiss (c : Byte) : Statement (.rxFirstMiss c) :=
  fun h => ⟨(selectionTable ++ primitiveTable)[1], List.getElem_mem (by decide), rfl,
    accepts_upper (m := 0xF7#8) (v := 0x00#8) rfl rfl rfl (bne_iff_ne.2 (of_decide_eq_true h))⟩

theorem rxSecondHit : Statement .rxSecondHit :=
  fun _ => ⟨(selectionTable ++ primitiveTable)[2], List.getElem_mem (by decide), rfl, rfl⟩

theorem rxSecondMiss (c : Byte) : Statement (.rxSecondMiss c) :=
  fun h => ⟨(selectionTable ++ primitiveTable)[3], List.getElem_mem (by decide), rfl,
    accepts_upper (m := 0xF7#8) (v := 0x01#8) rfl rfl rfl (bne_iff_ne.2 (of_decide_eq_true h))⟩

theorem rxHeader (c : Byte) : Statement (.rxHeader c) :=
  fun _ => ⟨(selectionTable ++ primitiveTable)[4], List.getElem_mem (by decide), rfl,
    accepts_upper (m := 0xF7#8) (v := 0x02#8) rfl rfl rfl rfl⟩

theorem rxSizeZero : Statement .rxSizeZero :=
  fun _ => ⟨(selectionTable ++ primitiveTable)[5], List.getElem_mem (by decide), rfl, rfl⟩

theorem rxSizeData (c : Byte) : Statement (.rxSizeData c) := by
  intro h
  refine ⟨(selectionTable ++ primitiveTable)[6], List.getElem_mem (by decide), rfl, ?_⟩
  revert c
  decide

theorem rxSizeReject (c : Byte) : Statement (.rxSizeReject c) :=
  fun h => ⟨(selectionTable ++ primitiveTable)[7], List.getElem_mem (by decide), rfl,
    accepts_upper (m := 0xF7#8) (v := 0x03#8) rfl rfl rfl (by simpa [Instr.wf, selectionTable, primitiveTable, freeRow, Config.startByte, Config.maxData, Nat.lt_iff_add_one_le] using h)⟩

theorem rxData (c : Byte) : Statement (.rxData c) :=
  fun _ => ⟨(selectionTable ++ primitiveTable)[8], List.getElem_mem (by decide), rfl,
    accepts_upper (m := 0xF7#8) (v := 0x04#8) rfl rfl rfl rfl⟩

theorem rxCsum (c : Byte) : Statement (.rxCsum c) :=
  fun _ => ⟨(selectionTable ++ primitiveTable)[9], List.getElem_mem (by decide), rfl,
    accepts_upper (m := 0xF7#8) (v := 0x05#8) rfl rfl rfl rfl⟩

theorem rxTimeout : Statement .rxTimeout :=
  fun _ => ⟨(selectionTable ++ primitiveTable)[10], List.getElem_mem (by decide), rfl, rfl⟩

theorem irqRxnePush (c : Byte) : Statement (.irqRxnePush c) :=
  fun _ => ⟨(selectionTable ++ primitiveTable)[11], List.getElem_mem (by decide), rfl,
    accepts_upper (m := 0xF8#8) (v := 0x20#8) rfl rfl rfl rfl⟩

theorem irqRxneDrop (c : Byte) : Statement (.irqRxneDrop c) :=
  fun _ => ⟨(selectionTable ++ primitiveTable)[12], List.getElem_mem (by decide), rfl,
    accepts_upper (m := 0xF8#8) (v := 0x28#8) rfl rfl rfl rfl⟩

theorem irqTxeEmit : Statement .irqTxeEmit :=
  fun _ => ⟨(selectionTable ++ primitiveTable)[13], List.getElem_mem (by decide), rfl, rfl⟩

theorem irqTxeDone : Statement .irqTxeDone :=
  fun _ => ⟨(selectionTable ++ primitiveTable)[14], List.getElem_mem (by decide), rfl, rfl⟩

theorem txSend (p : Packet) : Statement (.txSend p) :=
  fun _ => ⟨(selectionTable ++ primitiveTable)[15], List.getElem_mem (by decide), rfl,
    (rfl : (selectionTable ++ primitiveTable)[15].accepts (selWord 4 0 0 0) = true)⟩

theorem txWait : Statement .txWait :=
  fun _ => ⟨(selectionTable ++ primitiveTable)[16], List.getElem_mem (by decide), rfl, rfl⟩

theorem linkEnable (flag : Bool) : Statement (.linkEnable flag) :=
  fun _ => ⟨(selectionTable ++ primitiveTable)[17], List.getElem_mem (by decide), rfl, by cases flag <;> rfl⟩

theorem linkSend (p : Packet) : Statement (.linkSend p) :=
  fun _ => ⟨(selectionTable ++ primitiveTable)[18], List.getElem_mem (by decide), rfl,
    (rfl : (selectionTable ++ primitiveTable)[18].accepts (selWord 7 0 0 0) = true)⟩

theorem linkRecv : Statement .linkRecv :=
  fun _ => ⟨(selectionTable ++ primitiveTable)[19], List.getElem_mem (by decide), rfl, rfl⟩

theorem perShift : Statement .perShift :=
  fun _ => ⟨(selectionTable ++ primitiveTable)[20], List.getElem_mem (by decide), rfl, rfl⟩

theorem reservedState67 : Statement .reservedState67 :=
  fun _ => ⟨(selectionTable ++ primitiveTable)[21], List.getElem_mem (by decide), rfl, rfl⟩

theorem reservedEv10to11 : Statement .reservedEv10to11 :=
  fun _ => ⟨(selectionTable ++ primitiveTable)[22], List.getElem_mem (by decide), rfl, rfl⟩

theorem reservedEv12to15 : Statement .reservedEv12to15 :=
  fun _ => ⟨(selectionTable ++ primitiveTable)[23], List.getElem_mem (by decide), rfl, rfl⟩

theorem qPushIsr (v : Byte) : Statement (.qPushIsr v) :=
  fun _ => ⟨(selectionTable ++ primitiveTable)[24], List.getElem_mem (by decide), rfl,
    accepts_upper (m := 0xF0#8) (v := 0x20#8) rfl rfl rfl rfl⟩

theorem qPushNb (p : Packet) : Statement (.qPushNb p) :=
  fun _ => ⟨(selectionTable ++ primitiveTable)[25], List.getElem_mem (by decide), rfl,
    (rfl : (selectionTable ++ primitiveTable)[25].accepts (selWord 0 0 5 0) = true)⟩

theorem qPopT (t : Bool) : Statement (.qPopT t) :=
  fun _ => ⟨(selectionTable ++ primitiveTable)[26], List.getElem_mem (by decide), rfl, by cases t <;> rfl⟩

theorem qPopInf : Statement .qPopInf :=
  fun _ => ⟨(selectionTable ++ primitiveTable)[27], List.getElem_mem (by decide), rfl, rfl⟩

theorem semGiveIsr : Statement .semGiveIsr :=
  fun _ => ⟨(selectionTable ++ primitiveTable)[28], List.getElem_mem (by decide), rfl, rfl⟩

theorem semTake : Statement .semTake :=
  fun _ => ⟨(selectionTable ++ primitiveTable)[29], List.getElem_mem (by decide), rfl, rfl⟩

end Laws.EncodeRow

end Sys2Proof
end

