-- ==== Sys2Proof/Laws/Select.lean ====
section
/-! SUPPORT. Selection: no word selects a primitive, and everything one step can do. -/

namespace Sys2Proof.Machine

/-- No selection decodes to a primitive row (30_encoding.md R98). -/
theorem decode_isPrim (sel : Selection) : (decode sel).isPrim = false := by
  unfold decode decodeRxByte
  repeat' split
  all_goals rfl

theorem selected_isPrim {s : State} {e : Event} {i : Instr} (h : selected s e = some i) :
    i.isPrim = false := by
  obtain ⟨sel, -, rfl⟩ := Option.map_eq_some_iff.1 h
  exact decode_isPrim sel

/-- Selection does not read the script. -/
@[simp] theorem selected_script (s : State) (es : List Event) (e : Event) :
    selected { s with script := es } e = selected s e := by cases e <;> rfl

/-- Everything a step can do: perform the scheduled operation, which is not a primitive, on the state with
the event consumed; or, with nothing scheduled, consume the event if there is one. -/
theorem step_next {s t : State} (h : step s = .next t) :
    (scheduled s = none ∧ t = { s with script := s.script.tail }) ∨
      ∃ i, scheduled s = some i ∧ i.isPrim = false ∧
        exec i { s with script := s.script.tail } = .next t := by
  unfold step at h
  split at h
  · rename_i hs
    cases h
    refine .inl ⟨by simp [scheduled, hs], ?_⟩
    rw [hs, List.tail_nil, ← hs]
  · rename_i e es hs
    simp only [perform, selected_script] at h
    simp only [scheduled, hs, List.tail_cons]
    split at h
    · rename_i i hi
      exact .inr ⟨i, hi, selected_isPrim hi, h⟩
    · rename_i hi
      cases h
      exact .inl ⟨hi, rfl⟩

end Sys2Proof.Machine
end

