-- ==== Sys2Proof/Tests/Slice0.lean ====
section
/-! SUPPORT. The model's own tests. Expected results are the vectors of 95_test_vectors.md or are worked
out by hand from the rule cited. The last part shows, for each statement with hypotheses, a state and
operands that meet them. -/

namespace Sys2Proof.Machine

/-! ## Helpers -/

/-- A field of the state an operation leaves; none if it stops. -/
def field {α : Type} (o : Out State) (f : State → α) : Option α :=
  match o with
  | .next s => some (f s)
  | .fault _ => none
  | .refused _ => none

/-- The refusal an operation answers with, if it does. -/
def refusal (o : Out State) : Option Refusal :=
  match o with
  | .next _ => none
  | .fault _ => none
  | .refused r => some r

/-- The receive engine in a state with a byte queued and the accumulator at 6. -/
def engineAt (st : RxState) (c : Byte) : State :=
  { State.reset with rxState := st, rawq := [c], rxHeader := 3, rxCsum := 6 }

/-- A packet with no data. -/
def emptyPacket (h : Byte) : Packet := { header := h, size := 0, data := [] }

/-- The selection of a word, with no packet. -/
def wordSel (w : SelWord) : Selection := { word := w, packet := Packet.zero }

/-! ## Decoding: words of 95_test_vectors.md and of the patterns of 30_encoding.md R97 and R98 -/

theorem test_decode_rx_first_hit : decode (wordSel 0x00AA) = .rxFirstHit := by decide
theorem test_decode_rx_first_miss : decode (wordSel 0x0055) = .rxFirstMiss 0x55 := by decide
theorem test_decode_rx_second_hit : decode (wordSel 0x01AA) = .rxSecondHit := by decide
theorem test_decode_rx_second_miss : decode (wordSel 0x0101) = .rxSecondMiss 0x01 := by decide
theorem test_decode_rx_header : decode (wordSel 0x0203) = .rxHeader 0x03 := by decide
theorem test_decode_rx_size_zero : decode (wordSel 0x0300) = .rxSizeZero := by decide
theorem test_decode_rx_size_data : decode (wordSel 0x031E) = .rxSizeData 30 := by decide
theorem test_decode_rx_size_reject : decode (wordSel 0x031F) = .rxSizeReject 31 := by decide
/-- V3.8: size byte 158, whose low five bits are 30. -/
theorem test_decode_rx_size_158 : decode (wordSel 0x039E) = .rxSizeReject 158 := by decide
theorem test_decode_rx_data : decode (wordSel 0x0401) = .rxData 0x01 := by decide
theorem test_decode_rx_csum : decode (wordSel 0x050C) = .rxCsum 0x0C := by decide
/-- `x` is the guard bit's value in every row with `ev = 0`. -/
theorem test_decode_guard_ignored : decode (wordSel 0x0D0C) = .rxCsum 0x0C := by decide
theorem test_decode_rx_timeout : decode (wordSel 0x1000) = .rxTimeout := by decide
theorem test_decode_irq_rxne_push : decode (wordSel 0x20AA) = .irqRxnePush 0xAA := by decide
theorem test_decode_irq_rxne_drop : decode (wordSel 0x2811) = .irqRxneDrop 0x11 := by decide
theorem test_decode_irq_txe_emit : decode (wordSel 0x3800) = .irqTxeEmit := by decide
theorem test_decode_irq_txe_done : decode (wordSel 0x3000) = .irqTxeDone := by decide
theorem test_decode_tx_send :
    decode { word := 0x4000, packet := emptyPacket 3 } = .txSend (emptyPacket 3) := by decide
theorem test_decode_tx_wait : decode (wordSel 0x5000) = .txWait := by decide
theorem test_decode_link_enable : decode (wordSel 0x6001) = .linkEnable true := by decide
theorem test_decode_link_disable : decode (wordSel 0x6000) = .linkEnable false := by decide
theorem test_decode_link_send :
    decode { word := 0x7000, packet := emptyPacket 3 } = .linkSend (emptyPacket 3) := by decide
theorem test_decode_link_recv : decode (wordSel 0x8000) = .linkRecv := by decide
theorem test_decode_per_shift : decode (wordSel 0x9000) = .perShift := by decide
theorem test_decode_reserved_state6 : decode (wordSel 0x0600) = .reservedState67 := by decide
theorem test_decode_reserved_state7 : decode (wordSel 0x07AA) = .reservedState67 := by decide
theorem test_decode_reserved_ev10 : decode (wordSel 0xA000) = .reservedEv10to11 := by decide
theorem test_decode_reserved_ev11 : decode (wordSel 0xB123) = .reservedEv10to11 := by decide
theorem test_decode_reserved_ev12 : decode (wordSel 0xC000) = .reservedEv12to15 := by decide
theorem test_decode_reserved_ev15 : decode (wordSel 0xFFFF) = .reservedEv12to15 := by decide

/-- The word of each primitive is one its own row accepts (spec/opcode_table.json); no word decodes to
one. -/
theorem test_encode_primitives :
    [encodeWord (.qPushIsr 0xAA), encodeWord (.qPushNb Packet.zero), encodeWord (.qPopT false),
      encodeWord (.qPopT true), encodeWord .qPopInf, encodeWord .semGiveIsr, encodeWord .semTake] =
      [0x20AA, 0x0500, 0x0000, 0x1000, 0x8000, 0x3000, 0x5000] := by decide

theorem test_decode_table_word : decodeTableWord 16 0x031E = some (.rxSizeData 30) := by decide
theorem test_decode_one_byte : decodeTableWord 8 0x1E = none := by decide
theorem test_decode_three_bytes : decodeTableWord 24 0x031E = none := by decide

/-! ## Well-formedness: an ill-formed term for each check -/

theorem test_wf_first_miss : (Instr.rxFirstMiss 0xAA).wf = false := by decide
theorem test_wf_second_miss : (Instr.rxSecondMiss 0xAA).wf = false := by decide
theorem test_wf_size_data_zero : (Instr.rxSizeData 0).wf = false := by decide
theorem test_wf_size_data_31 : (Instr.rxSizeData 31).wf = false := by decide
theorem test_wf_size_reject_30 : (Instr.rxSizeReject 30).wf = false := by decide
theorem test_wf_send_31 :
    (Instr.txSend { header := 0, size := 31, data := List.replicate 31 0 }).wf = false := by decide
theorem test_wf_link_send_short :
    (Instr.linkSend { header := 0, size := 2, data := [1] }).wf = false := by decide
theorem test_wf_push_long :
    (Instr.qPushNb { header := 0, size := 0, data := [1] }).wf = false := by decide
theorem test_wf_send_30 :
    (Instr.txSend { header := 0, size := 30, data := List.replicate 30 0 }).wf = true := by decide

/-! ## Checksum arithmetic: V2.5 to V2.9, V2.11, V2.16, V2.20, V2.21 -/

theorem test_fold : [fold 254 254, fold 254 255, fold 200 100, fold 100 155, seed 0xFF] =
    [253, 254, 45, 0, 0] := by decide
theorem test_csum : [csum 0x03 3 [1, 2, 3], csum 0xFF 1 [0xFF],
    csum 0x3C 5 [0x10, 0x20, 0x30, 0x40, 0x50], csum 0x80 30 (List.replicate 30 0xFF)] =
    [0x0C, 0x01, 0x32, 0x9E] := by decide
theorem test_frame : frame 0x03 [1, 2, 3] = [0xAA, 0xAA, 3, 3, 1, 2, 3, 0x0C] := by decide

/-! ## One step of each operation -/

theorem test_rx_first_hit :
    field (exec .rxFirstHit (engineAt .awaitFirstStart 0xAA)) State.rxState =
      some .awaitSecondStart := by decide
theorem test_rx_first_miss :
    field (exec (.rxFirstMiss 0x55) (engineAt .awaitFirstStart 0x55))
      (fun s => (s.rxState, s.rawq, s.notes)) = some (.awaitFirstStart, [], []) := by decide
theorem test_rx_first_not_selected :
    refusal (exec .rxFirstHit (engineAt .awaitHeader 0xAA)) =
      some (.notSelected "RX.FIRST.HIT") := by decide
theorem test_rx_second_hit :
    field (exec .rxSecondHit (engineAt .awaitSecondStart 0xAA)) State.rxState =
      some .awaitHeader := by decide
theorem test_rx_second_miss :
    field (exec (.rxSecondMiss 1) (engineAt .awaitSecondStart 1)) (fun s => (s.rxState, s.notes)) =
      some (.awaitFirstStart, [.ev1 1]) := by decide
/-- V2.9: the header 0xFF seeds 0. -/
theorem test_rx_header :
    field (exec (.rxHeader 0xFF) (engineAt .awaitHeader 0xFF))
      (fun s => (s.rxState, s.rxHeader, s.rxCsum)) = some (.awaitSize, 0xFF, 0) := by decide
theorem test_rx_size_zero :
    field (exec .rxSizeZero (engineAt .awaitSize 0)) (fun s => (s.rxState, s.rxSize, s.rxCsum)) =
      some (.awaitChecksum, 0, 6) := by decide
theorem test_rx_size_data :
    field (exec (.rxSizeData 30) (engineAt .awaitSize 30))
      (fun s => (s.rxState, s.rxSize, s.rxCsum)) = some (.awaitData, 30, 36) := by decide
/-- V3.7: nothing but the receive state changes. -/
theorem test_rx_size_reject :
    field (exec (.rxSizeReject 31) (engineAt .awaitSize 31))
      (fun s => (s.rxState, s.rxSize, s.rxCsum, s.notes)) =
      some (.awaitFirstStart, 0, 6, [.ev2 31]) := by decide
/-- The example of 42_rx_framing.md R155. -/
theorem test_rx_data :
    field
      (exec (.rxData 3) { engineAt .awaitData 3 with rxSize := 3, rxIndex := 2, rxCsum := 9 })
      (fun s => (s.rxState, s.rxData, s.rxCsum, s.rxIndex)) =
      some (.awaitChecksum, [(2, 3)], 12, 3) := by decide
theorem test_rx_data_outside :
    refusal (exec (.rxData 3) { engineAt .awaitData 3 with rxIndex := 30 }) =
      some (.outsideSpace .rxdata 30) := by decide
theorem test_rx_csum_match :
    field (exec (.rxCsum 6) { engineAt .awaitChecksum 6 with rxSize := 1, rxData := [(0, 2)] })
      (fun s => (s.rxState, s.pktq)) =
      some (.awaitFirstStart, [{ header := 3, size := 1, data := [2] }]) := by decide
/-- V3.16: with the queue full a bad checksum gives EV3 only. -/
theorem test_rx_csum_mismatch :
    field
      (exec (.rxCsum 7) { engineAt .awaitChecksum 7 with pktq := [emptyPacket 1, emptyPacket 2] })
      (fun s => (s.rxState, s.pktq.length, s.notes)) =
      some (.awaitFirstStart, 2, [.ev3 7 6]) := by decide
theorem test_rx_timeout :
    field (exec .rxTimeout { State.reset with rxState := .awaitData })
      (fun s => (s.rxState, s.notes)) = some (.awaitFirstStart, [.ev4 .awaitData]) := by decide
theorem test_rx_timeout_with_byte :
    refusal (exec .rxTimeout (engineAt .awaitData 1)) = some .timeoutWithByteQueued := by decide
theorem test_irq_rxne_push :
    field (exec (.irqRxnePush 0x33) (engineAt .awaitData 0xAA)) State.rawq =
      some [0xAA, 0x33] := by decide
/-- V5.2: the newest byte is the one lost. -/
theorem test_irq_rxne_drop :
    field (exec (.irqRxneDrop 0x11)
      { State.reset with params := ⟨1, 64⟩, rawq := [0x10] }) (fun s => (s.rawq, s.notes)) =
      some ([0x10], [.ev5 0x11]) := by decide

/-- The example of 44_interrupt_handlers.md R201: `tx_index = 4`, slot 7. -/
def emitExample : State :=
  { State.reset with
    txBuf := [(4, 1), (5, 2), (6, 3), (7, 7)], txIndex := 4, txLen := 8, txCpos := 7,
    txPhase := .waiting, txeIe := true }

theorem test_irq_txe_emit :
    field (exec .irqTxeEmit emitExample) (fun s => (s.tdr, s.txIndex, memGet s.txBuf 7)) =
      some (1, 5, some 9) := by decide
/-- V4.1 pair 6: the new index 7 is past `tx_len - 2`, so nothing is added. -/
theorem test_irq_txe_emit_past_bound :
    field (exec .irqTxeEmit { emitExample with txIndex := 6 })
      (fun s => (s.tdr, s.txIndex, memGet s.txBuf 7)) = some (3, 7, some 7) := by decide
theorem test_irq_txe_done :
    field (exec .irqTxeDone { emitExample with txIndex := 8 })
      (fun s => (s.txeIe, s.sem, s.tdrFull, s.txIndex)) = some (false, true, false, 8) := by decide
/-- V7.1: no request while the data register is full. -/
theorem test_irq_txe_no_request :
    refusal (exec .irqTxeDone { emitExample with tdrFull := true }) = some .noTxeRequest := by decide
/-- V4.1: TX.SEND of the example. -/
theorem test_tx_send :
    field (exec (.txSend { header := 3, size := 3, data := [1, 2, 3] }) State.reset)
      (fun s => (s.txBuf.map Prod.snd, s.txLen, s.txCpos, s.txIndex, s.tdr)) =
      some ([0xAA, 0xAA, 3, 3, 1, 2, 3, 0], 8, 7, 1, 0xAA) := by decide
/-- V4.5: a packet with size 31 is refused. -/
theorem test_tx_send_31 :
    refusal (exec (.txSend { header := 0, size := 31, data := List.replicate 31 0 }) State.reset) =
      some .packetIllFormed := by decide
theorem test_tx_wait :
    field (exec .txWait { State.reset with txPhase := .waiting, sem := true })
      (fun s => (s.txPhase, s.sem, s.outs)) = some (.idle, false, [.sendReturned]) := by decide
/-- V6.1: no wait outside a send. -/
theorem test_tx_wait_outside : refusal (exec .txWait State.reset) = some .waitOutsideSend := by decide
theorem test_link_enable :
    field (exec (.linkEnable false) emitExample) (fun s => (s.outs, { s with outs := [] })) =
      some ([.enableReturned], emitExample) := by decide
theorem test_link_send :
    field (exec (.linkSend (emptyPacket 0xFF)) State.reset)
      (fun s => (s.txBuf.map Prod.snd, s.txLen, s.txPhase, s.txeIe)) =
      some ([0xAA, 0xAA, 0xFF, 0, 0], 5, .waiting, true) := by decide
theorem test_link_recv :
    field (exec .linkRecv { State.reset with pktq := [emptyPacket 1, emptyPacket 2] })
      (fun s => (s.pktq, s.outs)) = some ([emptyPacket 2], [.received (emptyPacket 1)]) := by decide
theorem test_per_shift :
    field (exec .perShift { State.reset with tdr := 0xAA, tdrFull := true })
      (fun s => (s.wireTx, s.tdrFull)) = some ([0xAA], false) := by decide
theorem test_q_push_isr :
    field (exec (.qPushIsr 4) (engineAt .awaitData 3)) State.rawq = some [3, 4] := by decide
theorem test_q_push_nb :
    field (exec (.qPushNb (emptyPacket 3))
      { State.reset with pktq := [emptyPacket 1, emptyPacket 2] }) (fun s => (s.pktq, s.notes)) =
      some ([emptyPacket 1, emptyPacket 2], [.ev6 (emptyPacket 3)]) := by decide
theorem test_q_pop_t :
    field (exec (.qPopT false) { State.reset with rawq := [0xAA, 3] })
      (fun s => (s.rawq, s.outs)) = some ([3], [.popped (some 0xAA)]) := by decide
theorem test_q_pop_inf :
    field (exec .qPopInf { State.reset with pktq := [emptyPacket 1, emptyPacket 2] })
      (fun s => (s.pktq, s.outs)) =
      some ([emptyPacket 2], [.poppedPacket (emptyPacket 1)]) := by decide
theorem test_sem_give : field (exec .semGiveIsr State.reset) State.sem = some true := by decide
theorem test_sem_take :
    field (exec .semTake { State.reset with sem := true }) State.sem = some false := by decide
theorem test_sem_take_holds : field (exec .semTake emitExample) id = some emitExample := by decide
theorem test_reserved_state67 :
    refusal (exec .reservedState67 State.reset) =
      some (.reservedSelection "RESERVED.STATE67") := by decide
theorem test_reserved_ev10_11 :
    refusal (exec .reservedEv10to11 State.reset) =
      some (.reservedSelection "RESERVED.EV10_11") := by decide
theorem test_reserved_ev12_15 :
    refusal (exec .reservedEv12to15 State.reset) =
      some (.reservedSelection "RESERVED.EV12_15") := by decide

/-! ## Memory, stepping and the fetch of a table word -/

theorem test_mem_unwritten :
    memRead .txbuf 3 State.reset = .fault (.unwrittenRead .txbuf 3) := by rfl
theorem test_mem_write_sorted : memPut [(1, 5), (4, 6)] 2 7 = [(1, 5), (2, 7), (4, 6)] := by decide
theorem test_mem_last_cell : field (memWrite .txbuf 63 9 State.reset) State.txBuf = some [(63, 9)] := by
  decide
theorem test_step_consumes_event :
    field (step { State.reset with script := [.rx 0xAA, .step] })
      (fun s => (s.rawq, s.script)) = some ([0xAA], [.step]) := by decide
theorem test_fetch_emit :
    field (step (State.reset.withFetchWord 16 0x3800)) (fun s => (s.txIndex, s.tdr)) =
      some (2, 0xAA) := by decide
theorem test_fetch_size_reject :
    field (step (State.reset.withFetchWord 16 0x031F)) State.notes = some [.ev2 31] := by decide

/-! ## Hypotheses met

A state in mid-frame on both sides: the receive engine holds one of two data bytes (header 5, size 2,
byte 7, sum 14) with the next byte queued; a send of header 3 and data byte 5 has put three bytes on the
line and the fourth in the data register, so the slot holds 3 + 1 + 5. -/

/-- The packet being sent. -/
def midPacket : Packet := { header := 3, size := 1, data := [5] }

/-- The state in mid-frame. -/
def midState : State :=
  { State.reset with
    rxState := .awaitData, rxHeader := 5, rxSize := 2, rxData := [(0, 7)], rxIndex := 1, rxCsum := 14,
    txBuf := [(0, 0xAA), (1, 0xAA), (2, 3), (3, 1), (4, 5), (5, 9)], txIndex := 4, txLen := 6,
    txCpos := 5, txPhase := .waiting, txeIe := true, rawq := [8], pktq := [emptyPacket 1], tdr := 1,
    tdrFull := true, wireTx := [0xAA, 0xAA, 3], script := [.step] }

theorem test_mid_sending : Sending [] midPacket midState := by
  refine ⟨⟨rfl, rfl, rfl, rfl, by decide, by decide, rfl, rfl, fun _ => rfl, fun h => ?_⟩, rfl⟩
  cases h

theorem test_mid_inv : Inv midState :=
  ⟨rfl, ⟨rfl, rfl, rfl, rfl⟩,
    ⟨by decide, by decide, by decide, by decide, by decide, [7], rfl, rfl, rfl⟩,
    ⟨by decide, by decide, by decide, midPacket, test_mid_sending.1⟩,
    ⟨by decide, by decide, by decide⟩⟩

/-- The same with the send over: the receive side of `midState`, the transmit side at rest. -/
def restState : State :=
  { midState with
    txPhase := .idle, txeIe := false, tdrFull := false,
    wireTx := [0xAA, 0xAA, 3, 1, 5, 9], txIndex := 6, script := [.wait] }

theorem test_rest_inv : Inv restState :=
  ⟨rfl, ⟨rfl, rfl, rfl, rfl⟩,
    ⟨by decide, by decide, by decide, by decide, by decide, [7], rfl, rfl, rfl⟩,
    ⟨by decide, by decide, by decide, rfl, rfl, rfl⟩, ⟨by decide, by decide, by decide⟩⟩

theorem test_witness_DecodeReadsBackEveryEncoding :
    (Instr.rxSizeData 1).wf = true ∧ (Instr.rxSizeData 30).wf = true ∧
      (Instr.rxSizeReject 31).wf = true ∧ (Instr.rxSizeData 30).isPrim = false := by decide

theorem test_witness_StepRunsTheSelectedOperation :
    (midState.script = .step :: [] ∧ selected { midState with script := [] } .step = some (.rxData 8)) ∧
      ({ State.reset with script := [.step] }.script = .step :: [] ∧
        { State.reset with script := [.step] }.rawq = []) ∧
      State.reset.script = [] := ⟨⟨rfl, rfl⟩, ⟨rfl, rfl⟩, rfl⟩

theorem test_witness_RxFirstHuntsForTheMarker (c : Byte) :
    (engineAt .awaitFirstStart c).rawq = c :: [] ∧
      (engineAt .awaitFirstStart c).rxState = .awaitFirstStart ∧
      (0xAB#8 : Byte) ≠ 0xAA#8 := ⟨rfl, rfl, by decide⟩

theorem test_witness_RxSecondNeedsTheMarker (c : Byte) :
    (engineAt .awaitSecondStart c).rawq = c :: [] ∧
      (engineAt .awaitSecondStart c).rxState = .awaitSecondStart ∧
      (0xA9#8 : Byte) ≠ 0xAA#8 := ⟨rfl, rfl, by decide⟩

theorem test_witness_RxHeaderRecordsAndSeeds :
    (engineAt .awaitHeader 0xFF).rawq = 0xFF :: [] ∧
      (engineAt .awaitHeader 0xFF).rxState = .awaitHeader := ⟨rfl, rfl⟩

theorem test_witness_RxSizeAcceptsUpToThirty (c : Byte) :
    (engineAt .awaitSize c).rawq = c :: [] ∧ (engineAt .awaitSize c).rxState = .awaitSize ∧
      (0#8).toNat = 0 ∧ 1 ≤ (1#8).toNat ∧ (30#8).toNat ≤ 30 ∧ 30 < (31#8).toNat ∧
      30 < (255#8).toNat := ⟨rfl, rfl, by decide⟩

theorem test_witness_RxDataStoresAndFolds (i : Nat) :
    { engineAt .awaitData 3 with rxIndex := i }.rawq = 3 :: [] ∧
      { engineAt .awaitData 3 with rxIndex := i }.rxState = .awaitData ∧ 29 < 30 ∧ 30 ≤ 30 :=
  ⟨rfl, rfl, by decide⟩

/-- A match with one packet queued (pushed), with two (dropped), and a mismatch. -/
theorem test_witness_RxCsumEmitsOnMatch (q : List Packet) :
    let s := { engineAt .awaitChecksum 6 with rxSize := 1, rxData := [(0, 2)], pktq := q }
    s.rawq = 6 :: [] ∧ s.rxState = .awaitChecksum ∧ 6 = s.rxCsum ∧ [2#8].length = s.rxSize.toNat ∧
      (∀ (i : Nat) (b : Byte), [2#8][i]? = some b → memRead .rxdata i s = .next b) ∧
      [emptyPacket 1].length < 2 ∧ ¬[emptyPacket 1, emptyPacket 2].length < 2 ∧
      (engineAt .awaitChecksum 7).rawq = 7 :: [] ∧ 7 ≠ (engineAt .awaitChecksum 7).rxCsum := by
  refine ⟨rfl, rfl, rfl, rfl, fun i b hb => ?_, by decide, by decide, rfl, by decide⟩
  cases i with
  | zero =>
    cases hb
    rfl
  | succ i => simp at hb

theorem test_witness_RxTimeoutResynchronises :
    State.reset.rawq = [] ∧ State.reset.rxState = .awaitFirstStart ∧
      { State.reset with rxState := .awaitSize }.rxState ≠ .awaitFirstStart :=
  ⟨rfl, rfl, by decide⟩

/-- One byte below the capacity, and at it. -/
theorem test_witness_ReceivedByteIsQueuedOrDropped :
    let s := { State.reset with params := ⟨2, 64⟩, rawq := [1] }
    let t := { s with rawq := [1, 2] }
    s.rawq.length < s.params.rawqCap ∧ t.params.rawqCap ≤ t.rawq.length := by decide

/-- The look-ahead at its last index (new index 6 = `tx_len - 2`), and one past it. -/
theorem test_witness_EmitSendsTheByteAndLooksAhead :
    let s := { emitExample with txIndex := 5 }
    let t := { emitExample with txIndex := 6 }
    (s.txeIe = true ∧ s.tdrFull = false ∧ s.txIndex < s.txLen ∧
      memRead .txbuf s.txIndex s = .next 2 ∧ (1 < s.txIndex + 1 ∧ s.txIndex + 1 + 2 ≤ s.txLen) ∧
      memRead .txbuf s.txCpos s = .next 7 ∧ memRead .txbuf (s.txIndex + 1) s = .next 3) ∧
      (t.txeIe = true ∧ t.tdrFull = false ∧ t.txIndex < t.txLen ∧
        memRead .txbuf t.txIndex t = .next 3 ∧ ¬(1 < t.txIndex + 1 ∧ t.txIndex + 1 + 2 ≤ t.txLen)) :=
  ⟨⟨rfl, rfl, by decide, rfl, by decide, rfl, rfl⟩, rfl, rfl, by decide, rfl, by decide⟩

theorem test_witness_DoneDisablesAndGives :
    let s := { emitExample with txIndex := 8 }
    s.txeIe = true ∧ s.tdrFull = false ∧ s.txLen ≤ s.txIndex := by decide

/-- The shortest and the longest packet. -/
theorem test_witness_SendLoadsTheFrame :
    let p := emptyPacket 0
    let q : Packet := { header := 0, size := 30, data := List.replicate 30 0xFF }
    restState.txPhase = .idle ∧ restState.tdrFull = false ∧ 35 ≤ restState.params.txBufCap ∧
      p.size.toNat ≤ 30 ∧ p.data.length = p.size.toNat ∧ q.size.toNat ≤ 30 ∧
      q.data.length = q.size.toNat := by decide

theorem test_witness_SendOutsideItsPreconditionIsRefused :
    midState.txPhase = .waiting ∧ restState.txPhase = .idle ∧
      30 < ({ header := 0, size := 31, data := [] } : Packet).size.toNat ∧
      ({ header := 0, size := 1, data := [] } : Packet).data.length ≠ 1 := by decide

theorem test_witness_WaitTakesTheSemaphoreOrHolds :
    (midState.txPhase = .waiting ∧ midState.sem = false) ∧ { midState with sem := true }.sem = true ∧
      restState.txPhase = .idle := by decide

theorem test_witness_ReceiveReturnsTheOldestPacketOrHolds :
    midState.pktq = emptyPacket 1 :: [] ∧ State.reset.pktq = [] := by decide

theorem test_witness_ShiftMovesTheDataRegisterToTheLine :
    midState.tdrFull = true ∧ restState.tdrFull = false := by decide

theorem test_witness_PopsTakeTheOldestOrHold :
    midState.rawq = 8 :: [] ∧ State.reset.rawq = [] ∧ midState.pktq = emptyPacket 1 :: [] ∧
      State.reset.pktq = [] := by decide

theorem test_witness_GiveAndTakeTheSemaphore :
    { midState with sem := true }.sem = true ∧ midState.sem = false := by decide

theorem test_witness_ReservedRowsAreRefused :
    0x0FFF#16 &&& 0xF600#16 = 0x0600#16 ∧ 0xBFFF#16 &&& 0xE000#16 = 0xA000#16 ∧
      0xFFFF#16 &&& 0xC000#16 = 0xC000#16 := by decide

/-- The last cell of the space, which is not written; the first address past it. -/
theorem test_witness_MemoryPrimitivesKeepEveryOtherCell :
    63 < spaceSize midState .txbuf ∧ (∀ c ∈ cells midState .txbuf, c.1 ≠ 63) ∧
      29 < spaceSize midState .rxdata ∧ spaceSize midState .txbuf ≤ 64 ∧
      spaceSize midState .rxdata ≤ 30 ∧ Memory.wf midState.txBuf = true ∧
      Memory.wf midState.rxData = true := by decide

/-- The least parameters 00_scope.md R8 allows. -/
theorem test_witness_InvariantHoldsAtReset : (Params.mk 1 35).ok = true := by decide

theorem test_witness_EveryStepKeepsTheInvariant : Inv midState ∧ ∃ t, step midState = .next t :=
  ⟨test_mid_inv, _, rfl⟩

theorem test_witness_LegalEventNeverStops :
    Inv midState ∧ legal midState .step = true ∧ legal midState (.rx 0) = true ∧
      legal midState .shift = true ∧ legal midState .recv = true :=
  ⟨test_mid_inv, rfl, rfl, rfl, rfl⟩

theorem test_witness_IllegalEventHoldsOrIsRefused :
    legal State.reset .step = false ∧ legal State.reset .recv = false ∧
      (legal midState .wait = false ∧ midState.txPhase = .waiting) ∧
      (legal State.reset .wait = false ∧ State.reset.txPhase = .idle) ∧
      legal midState .timeout = false ∧ legal State.reset .shift = false ∧
      legal midState .txe = false := by decide

theorem test_witness_OperationsWriteOnlyWhatTheirAgentOwns :
    (Instr.rxData 8).agent = some .rxeng ∧ ∃ t, exec (.rxData 8) midState = .next t :=
  ⟨rfl, _, rfl⟩

/-- A matching checksum byte with one packet queued, and one with two. -/
def csumState (q : List Packet) : State :=
  { engineAt .awaitChecksum 6 with rxSize := 1, rxData := [(0, 2)], pktq := q, script := [.step] }

/-- Each case of the statement: a byte appended, a byte consumed, an engine held by a word put forward,
a packet returned, a packet queued (one queued before) and one dropped (two queued before). -/
theorem test_witness_QueuesAreFirstInFirstOut :
    (scheduled { midState with script := [.rx 9] } = some (.irqRxnePush 9) ∧
      ∃ t, step { midState with script := [.rx 9] } = .next t) ∧
    (scheduled midState = some (.rxData 8) ∧ ∃ t, step midState = .next t) ∧
    (scheduled { State.reset with script := [.present 0x00AA] } = some .rxFirstHit ∧
      ∃ t, step { State.reset with script := [.present 0x00AA] } = .next t) ∧
    (scheduled { midState with script := [.recv] } = some .linkRecv ∧
      ∃ t, step { midState with script := [.recv] } = .next t) ∧
    (scheduled (csumState [emptyPacket 1]) = some (.rxCsum (csumState []).rxCsum) ∧
      ∃ t, step (csumState [emptyPacket 1]) = .next t) ∧
    ∃ t, step (csumState [emptyPacket 1, emptyPacket 2]) = .next t :=
  ⟨⟨rfl, _, rfl⟩, ⟨rfl, _, rfl⟩, ⟨rfl, _, rfl⟩, ⟨rfl, _, rfl⟩, ⟨rfl, _, rfl⟩, _, rfl⟩

theorem test_witness_GivesAndTakesStayBalanced :
    Inv midState ∧ gives midState = takes midState + (if midState.sem then 1 else 0) ∧
      ∃ t, step midState = .next t := ⟨test_mid_inv, rfl, _, rfl⟩

theorem test_witness_SendStartsAfterTheLineIsClear :
    Inv restState ∧ ∃ t, exec (.txSend midPacket) restState = .next t := ⟨test_rest_inv, _, rfl⟩

theorem test_witness_SendInFlightPutsExactlyItsFrameOnTheLine :
    Inv midState ∧ Sending [] midPacket midState ∧ ∃ t, step midState = .next t :=
  ⟨test_mid_inv, test_mid_sending, _, rfl⟩

/-- `midState` one event earlier: the slot holds 3 + 1 and the data register is empty, so the next EMIT
makes the index `tx_len - 2`. -/
def beforeLastAdd : State :=
  { midState with
    txIndex := 3, tdrFull := false, tdr := 3,
    txBuf := [(0, 0xAA), (1, 0xAA), (2, 3), (3, 1), (4, 5), (5, 4)] }

/-- At the EMIT that completes the slot, and at the one that sends it. -/
theorem test_witness_LookAheadCompletesTheChecksum :
    (SendInFlight midPacket beforeLastAdd ∧
      ∃ t, exec .irqTxeEmit beforeLastAdd = .next t ∧ t.txLen ≤ t.txIndex + 2) ∧
    (SendInFlight midPacket { midState with txIndex := 5, tdrFull := false } ∧
      { midState with txIndex := 5, tdrFull := false }.txIndex =
        { midState with txIndex := 5, tdrFull := false }.txCpos ∧
      ∃ t, exec .irqTxeEmit { midState with txIndex := 5, tdrFull := false } = .next t) := by
  refine ⟨⟨⟨rfl, rfl, rfl, rfl, by decide, by decide, rfl, rfl, fun _ => rfl, fun h => ?_⟩, _, rfl,
    by decide⟩, ⟨rfl, rfl, rfl, rfl, by decide, by decide, rfl, rfl, fun _ => rfl, fun h => ?_⟩, rfl, _,
    rfl⟩ <;> cases h

theorem test_witness_UninterruptedSendReturnsWithItsFrameOnTheLine :
    Inv restState ∧ restState.txPhase = .idle ∧ midPacket.wf = true := ⟨test_rest_inv, rfl, rfl⟩

/-- No data, and the most data. -/
theorem test_witness_FramedPacketIsDelivered :
    let d := List.replicate 30 (1#8)
    let s := { restState with rxState := .awaitFirstStart, rawq := frame 9 [] ++ [1] }
    let t := { restState with rxState := .awaitFirstStart, rawq := frame 9 d ++ [1] }
    s.rxState = .awaitFirstStart ∧ s.pktq.length < 2 ∧ s.rawq = frame 9 [] ++ [1] ∧
      t.rxState = .awaitFirstStart ∧ t.pktq.length < 2 ∧ t.rawq = frame 9 d ++ [1] ∧
      d.length ≤ 30 := ⟨rfl, by decide, rfl, rfl, by decide, rfl, by decide⟩

theorem test_witness_NoStartPairNoPacket :
    let s := { State.reset with rawq := [0x55, 0xAA] ++ [] }
    s.rxState = .awaitFirstStart ∧ s.rawq = [0x55, 0xAA] ++ [] ∧
      ∀ i : Nat, ¬([0x55#8, 0xAA#8][i]? = some 0xAA#8 ∧ [0x55#8, 0xAA#8][i + 1]? = some 0xAA#8) := by
  refine ⟨rfl, rfl, fun i h => ?_⟩
  cases i with
  | zero => exact absurd h.1 (by decide)
  | succ i => simp at h

/-- V3.3: the checksum byte is wrong. V3.11: the data byte 00 is changed to FF, and to 01. -/
theorem test_witness_CorruptedChecksumOrDataByteIsDroppedButForZeroAndAllOnes :
    let s := { State.reset with rawq := [0xAA#8, 0xAA#8, 3, 3] ++ [1, 2, 3] ++ 0x0D :: [] }
    let t := fun y : Byte =>
      { State.reset with
        rawq := [0xAA#8, 0xAA#8, 0x10, 1] ++ [0x00#8].set 0 y ++
          csum 0x10 (BitVec.ofNat 8 1) [0x00#8] :: [] }
    (s.rxState = .awaitFirstStart ∧ s.pktq.length < 2 ∧ [1#8, 2, 3].length ≤ 30 ∧
      0x0D#8 ≠ csum 3 (BitVec.ofNat 8 3) [1, 2, 3] ∧
      s.rawq = [0xAA#8, 0xAA#8, 3, BitVec.ofNat 8 [1#8, 2, 3].length] ++ [1, 2, 3] ++ 0x0D :: []) ∧
      ((t 0xFF).rxState = .awaitFirstStart ∧ (t 0xFF).pktq.length < 2 ∧
        [0x00#8][0]? = some 0x00#8 ∧ 0x00#8 ≠ 0xFF#8 ∧ 0x00#8 ≠ 0x01#8 ∧
        (t 0xFF).rawq = [0xAA, 0xAA, 0x10, 1, 0xFF, 0x11] ∧
        (t 0x01).rawq = [0xAA, 0xAA, 0x10, 1, 0x01, 0x11]) := by decide

/-- The header FF is changed to 00, and to 01: the checksum of `AA AA FF 00 00` (V3.2) is 0. -/
theorem test_witness_CorruptedHeaderIsDroppedButForZeroAndAllOnes :
    let s := fun g : Byte =>
      { State.reset with
        rawq := [0xAA#8, 0xAA#8, g, BitVec.ofNat 8 0] ++ [] ++ csum 0xFF (BitVec.ofNat 8 0) [] :: [] }
    ∀ g ∈ [0x00#8, 0x01#8],
      (s g).rxState = .awaitFirstStart ∧ (s g).pktq.length < 2 ∧ 0xFF#8 ≠ g ∧
        (s g).rawq = [0xAA, 0xAA, g, 0, 0] := by decide

theorem test_witness_TimeoutThenFrameIsDelivered :
    let s := { restState with rawq := [] }
    s.rawq = [] ∧ s.pktq.length < 2 ∧ (List.replicate 30 (1#8)).length ≤ 30 := by decide

end Sys2Proof.Machine
end

section
/-! The checksum arithmetic (00_scope.md R12). Reduction modulo 255 may be done after every addition or
once at the end (`fold_mod255`), so an accumulator that starts at `mod255 n` and folds a byte sequence
ends at the reduced exact sum (`foldl_fold_mod255`); the checksum is the case that starts at the header. -/

namespace Sys2Proof.Machine

/-- The remainder is below 256, so the byte holds it whole. -/
@[simp] theorem toNat_mod255 (n : Nat) : (mod255 n).toNat = n % 255 := by
  have hlt : n % 255 < 2 ^ 8 := by omega
  rw [mod255, Config.modulus, BitVec.toNat_ofNat, Nat.mod_eq_of_lt hlt]

@[simp] theorem byteSum_cons (b : Byte) (bs : List Byte) : byteSum (b :: bs) = b.toNat + byteSum bs := rfl

theorem byteSum_eq_sum_map_toNat (bs : List Byte) : byteSum bs = (bs.map BitVec.toNat).sum := by
  induction bs with
  | nil => rfl
  | cons b bs ih => rw [byteSum_cons, ih, List.map_cons, List.sum_cons]

theorem toNat_csum (h n : Byte) (d : List Byte) :
    (csum h n d).toNat = (h.toNat + n.toNat + (d.map BitVec.toNat).sum) % 255 := by
  rw [csum, toNat_mod255, byteSum_cons, byteSum_cons, byteSum_eq_sum_map_toNat, Nat.add_assoc]

theorem toNat_fold (a c : Byte) : (fold a c).toNat = (a.toNat + c.toNat) % 255 :=
  toNat_mod255 _

/-- Folding a byte into a reduced sum is reducing the longer sum. -/
theorem fold_mod255 (n : Nat) (c : Byte) : fold (mod255 n) c = mod255 (n + c.toNat) := by
  apply BitVec.eq_of_toNat_eq
  rw [toNat_fold, toNat_mod255, toNat_mod255, Nat.mod_add_mod]

theorem foldl_fold_mod255 (n : Nat) (bs : List Byte) :
    bs.foldl fold (mod255 n) = mod255 (n + byteSum bs) := by
  induction bs generalizing n with
  | nil => rfl
  | cons b bs ih => rw [List.foldl_cons, fold_mod255, ih, byteSum_cons, Nat.add_assoc]

/-- The accumulator of R12: seeded with the header, it folds the size byte, then the data bytes. -/
theorem foldl_fold_seed_eq_csum (h n : Byte) (d : List Byte) :
    d.foldl fold (fold (seed h) n) = csum h n d :=
  foldl_fold_mod255 h.toNat (n :: d)

/-- Settles O26: the one-shot formula, the one-byte update, and their agreement, which is the induction
over the bytes in `foldl_fold_mod255`. -/
theorem foldingByteByByteIsTheChecksum : Obligations.FoldingByteByByteIsTheChecksum := fun h n d =>
  ⟨toNat_csum h n d, toNat_fold, foldl_fold_seed_eq_csum h n d⟩

end Sys2Proof.Machine
end

section
/-! Everything an operation can do, said once for each operation that is more than one shared operation:
what its answer says of the state it ran in, and the state it answers. -/

namespace Sys2Proof.Machine

theorem txeReq_iff (s : State) : txeReq s = true ↔ s.txeIe = true ∧ s.tdrFull = false := by
  simp [txeReq, txe]

theorem txInFrame_iff (s : State) : txInFrame s = true ↔ s.txIndex < s.txLen := by
  simp [txInFrame]

theorem execIrqRxnePush_next {c : Byte} {s t : State} (h : execIrqRxnePush c s = .next t) :
    t = pushIsr c s := by
  simp only [execIrqRxnePush, inHandler_eq] at h
  split at h
  · cases h
  · cases h
    rfl

theorem execIrqRxneDrop_next {c : Byte} {s t : State} (h : execIrqRxneDrop c s = .next t) :
    t = pushIsr c s := by
  simp only [execIrqRxneDrop, inHandler_eq] at h
  split at h
  · cases h
    rfl
  · cases h

/-- The look-ahead writes no variable but the send buffer. -/
theorem lookAhead_frame {s t : State} (h : lookAhead s = .next t) :
    t = { s with txBuf := t.txBuf } := by
  rcases (lookAhead_next_iff s t).1 h with ⟨-, slot, b, -, -, -, -, rfl⟩ | ⟨-, rfl⟩ <;> rfl

/-- IRQ.TXE.EMIT: the byte at the index goes to the empty data register, the index advances, and the
look-ahead runs at the new index. -/
theorem execIrqTxeEmit_next {s t : State} (h : execIrqTxeEmit s = .next t) :
    s.txeIe = true ∧ s.txIndex < s.txLen ∧
      ∃ b, lookAhead { s with tdr := b, tdrFull := true, txIndex := s.txIndex + 1 } = .next t := by
  simp only [execIrqTxeEmit, inHandler_eq] at h
  split at h
  · cases h
  next hreq =>
    split at h
    · cases h
    next hin =>
      simp only [andThen_eq_next_iff, tdrWrite_next_iff] at h
      obtain ⟨b, -, s1, ⟨-, rfl⟩, hla⟩ := h
      rw [Bool.not_eq_false, txeReq_iff] at hreq
      rw [Bool.not_eq_false, txInFrame_iff] at hin
      exact ⟨hreq.1, hin, b, hla⟩

/-- IRQ.TXE.DONE: past the frame and with the data register empty, the interrupt is disabled and the
semaphore given. -/
theorem execIrqTxeDone_next {s t : State} (h : execIrqTxeDone s = .next t) :
    s.txeIe = true ∧ s.tdrFull = false ∧ s.txLen ≤ s.txIndex ∧
      t = semGive { s with txeIe := false } := by
  simp only [execIrqTxeDone, inHandler_eq] at h
  split at h
  · cases h
  next hreq =>
    split at h
    · cases h
    next hin =>
      rw [Bool.not_eq_false, txeReq_iff] at hreq
      rw [txInFrame_iff, Nat.not_lt] at hin
      cases h
      exact ⟨hreq.1, hreq.2, hin, rfl⟩

theorem execPerShift_next {s t : State} (h : execPerShift s = .next t) :
    s.tdrFull = true ∧ t = { s with wireTx := s.wireTx ++ [s.tdr], tdrFull := false } := by
  unfold execPerShift at h
  split at h
  next hfull =>
    cases h
    exact ⟨hfull, rfl⟩
  · cases h

/-- TX.WAIT: inside a send, the semaphore is taken and `send` returns, or the sender is held. -/
theorem execTxWait_next {s t : State} (h : execTxWait s = .next t) :
    s.txPhase = .waiting ∧
      ((s.sem = true ∧ t = output .sendReturned { s with sem := false, txPhase := .idle }) ∨
        (s.sem = false ∧ t = s)) := by
  unfold execTxWait at h
  split at h
  · cases h
  next hph =>
    refine ⟨by simpa using hph, ?_⟩
    rcases semTake_next h with ⟨hsem, hk⟩ | hold
    · cases hk
      exact .inl ⟨hsem, rfl⟩
    · exact .inr hold

/-- RX.DATA: the byte at the head of `rawq` is stored at the index, folded and counted, or the engine is
held. -/
theorem execRxData_next {c : Byte} {s t : State} (h : execRxData c s = .next t) :
    (∃ q, s.rawq = c :: q ∧ s.rxState = .awaitData ∧ s.rxIndex < Config.maxData ∧
      t = { s with
        rawq := q, rxData := memPut s.rxData s.rxIndex c, rxCsum := fold s.rxCsum c,
        rxIndex := s.rxIndex + 1,
        rxState := if s.rxIndex + 1 = s.rxSize.toNat then .awaitChecksum else .awaitData }) ∨
      (s.rawq = [] ∧ t = s) := by
  rcases rxByte_next h with ⟨q, hq, hst, -, hk⟩ | hold
  · simp only [andThen_eq_next_iff, memWrite_next_iff] at hk
    obtain ⟨s1, ⟨hlt, rfl⟩, hk⟩ := hk
    cases hk
    exact .inl ⟨q, hq, hst, hlt, rfl⟩
  · exact .inr hold

/-- RX.CSUM: the byte at the head of `rawq` matches and the packet in the receive registers is pushed, or
it does not (EV3), or the engine is held. -/
theorem execRxCsum_next {c : Byte} {s t : State} (h : execRxCsum c s = .next t) :
    (∃ q, s.rawq = c :: q ∧ s.rxState = .awaitChecksum ∧
      ((c = s.rxCsum ∧ ∃ p, assemblePacket s = .next p ∧
          t = resync (pushNb p { s with rawq := q })) ∨
        (c ≠ s.rxCsum ∧ t = resync (note (.ev3 c s.rxCsum) { s with rawq := q })))) ∨
      (s.rawq = [] ∧ t = s) := by
  rcases rxByte_next h with ⟨q, hq, hst, -, hk⟩ | hold
  · refine .inl ⟨q, hq, hst, ?_⟩
    split at hk
    next hc =>
      obtain ⟨p, hp, he⟩ := (andThen_eq_next_iff _ _ _).1 hk
      cases he
      exact .inl ⟨hc, p, by rwa [assemblePacket_next_iff] at hp ⊢, rfl⟩
    next hc =>
      cases hk
      exact .inr ⟨hc, rfl⟩
  · exact .inr hold

/-- RX.TIMEOUT: with nothing queued the engine resynchronises; mid-frame it records EV4 first. -/
theorem execRxTimeout_next {s t : State} (h : execRxTimeout s = .next t) :
    t = resync s ∨ t = resync (note (.ev4 s.rxState) s) := by
  rcases popT_next h with ⟨-, -, -, hf, -⟩ | ⟨-, -, hk⟩ | ⟨-, hf, -⟩
  · cases hf
  · split at hk
    · cases hk
      exact .inl rfl
    · cases hk
      exact .inr rfl
  · cases hf

end Sys2Proof.Machine
end

section
/-! Ownership (10_state.md R20 and R43). `writesOnlyOwned` composes, so an operation writes only what its
agent owns because each shared operation it is made of does. -/

namespace Sys2Proof.Machine

theorem writesOnlyOwned_refl (a : Agent) (s : State) : writesOnlyOwned a s s := by
  cases a <;> rfl

theorem writesOnlyOwned_trans {a : Agent} {s t u : State} (hst : writesOnlyOwned a s t)
    (htu : writesOnlyOwned a t u) : writesOnlyOwned a s u := by
  cases a <;> exact htu.trans (by rw [hst])

theorem pushIsr_writesOnlyOwned (v : Byte) (s : State) : writesOnlyOwned .irq s (pushIsr v s) := by
  rcases pushIsr_cases v s with ⟨-, h⟩ | ⟨-, h⟩ <;> rw [h] <;> rfl

theorem pushNb_writesOnlyOwned (p : Packet) (s : State) :
    writesOnlyOwned .rxeng s (pushNb p s) := by
  rcases pushNb_cases p s with ⟨-, h⟩ | ⟨-, h⟩ <;> rw [h] <;> rfl

theorem txSendOp_writesOnlyOwned {p : Packet} {s t : State} (h : txSendOp p s = .next t) :
    writesOnlyOwned .sender s t := by
  obtain ⟨-, -, -, -, rfl⟩ := (txSendOp_next_iff p s t).1 h
  rfl

/-- The receive engine owns the pop it shares, so a byte operation is owned if the rule after its pop
is. -/
theorem rxByte_writesOnlyOwned {mnemonic : String} {want : RxState} {c : Byte} {ok : Bool}
    {k : State → Out State} {s t : State} (h : rxByte mnemonic want c ok k s = .next t)
    (hk : ∀ q, k { s with rawq := q } = .next t → writesOnlyOwned .rxeng s t) :
    writesOnlyOwned .rxeng s t := by
  rcases rxByte_next h with ⟨q, -, -, -, h⟩ | ⟨-, rfl⟩
  · exact hk q h
  · rfl

theorem popInf_writesOnlyOwned {o : Packet → Output} {s t : State}
    (h : popInf s (fun p s1 => .next (output (o p) s1)) = .next t) :
    writesOnlyOwned .receiver s t := by
  rcases popInf_next h with ⟨p, q, -, hk⟩ | ⟨-, rfl⟩
  · cases hk
    rfl
  · rfl

theorem lookAhead_writesOnlyOwned {s t : State} (h : lookAhead s = .next t) :
    writesOnlyOwned .irq s t := by
  have hframe := lookAhead_frame h
  rw [hframe]
  rfl

theorem execRxData_writesOnlyOwned {c : Byte} {s t : State} (h : execRxData c s = .next t) :
    writesOnlyOwned .rxeng s t := by
  rcases execRxData_next h with ⟨q, -, -, -, rfl⟩ | ⟨-, rfl⟩ <;> rfl

theorem execRxCsum_writesOnlyOwned {c : Byte} {s t : State} (h : execRxCsum c s = .next t) :
    writesOnlyOwned .rxeng s t := by
  rcases execRxCsum_next h with ⟨q, -, -, ⟨-, p, -, rfl⟩ | ⟨-, rfl⟩⟩ | ⟨-, rfl⟩
  · have hpush := pushNb_writesOnlyOwned p { s with rawq := q }
    have hpop : writesOnlyOwned .rxeng s { s with rawq := q } := rfl
    exact writesOnlyOwned_trans (writesOnlyOwned_trans hpop hpush) rfl
  · rfl
  · rfl

theorem execRxTimeout_writesOnlyOwned {s t : State} (h : execRxTimeout s = .next t) :
    writesOnlyOwned .rxeng s t := by
  rcases execRxTimeout_next h with rfl | rfl <;> rfl

theorem execQPopT_writesOnlyOwned {timedOut : Bool} {s t : State}
    (h : execQPopT timedOut s = .next t) : writesOnlyOwned .rxeng s t := by
  rcases popT_next h with ⟨v, q, -, -, hk⟩ | ⟨-, -, hk⟩ | ⟨-, -, rfl⟩
  · cases hk
    rfl
  · cases hk
    rfl
  · rfl

theorem execIrqTxeEmit_writesOnlyOwned {s t : State} (h : execIrqTxeEmit s = .next t) :
    writesOnlyOwned .irq s t := by
  obtain ⟨-, -, b, hla⟩ := execIrqTxeEmit_next h
  have hemit : writesOnlyOwned .irq s
      { s with tdr := b, tdrFull := true, txIndex := s.txIndex + 1 } := rfl
  exact writesOnlyOwned_trans hemit (lookAhead_writesOnlyOwned hla)

theorem execTxWait_writesOnlyOwned {s t : State} (h : execTxWait s = .next t) :
    writesOnlyOwned .sender s t := by
  rcases (execTxWait_next h).2 with ⟨-, rfl⟩ | ⟨-, rfl⟩ <;> rfl

theorem execSemTake_writesOnlyOwned {s t : State} (h : execSemTake s = .next t) :
    writesOnlyOwned .sender s t := by
  rcases semTake_next h with ⟨-, hk⟩ | ⟨-, rfl⟩
  · cases hk
    rfl
  · rfl

/-- Settles O33, operation by operation. -/
theorem operationsWriteOnlyWhatTheirAgentOwns :
    Obligations.OperationsWriteOnlyWhatTheirAgentOwns := by
  intro i a s t ha h
  cases i <;> cases ha
  case rxFirstHit | rxFirstMiss | rxSecondHit | rxSecondMiss | rxHeader | rxSizeZero | rxSizeData
      | rxSizeReject =>
    simp only [exec] at h
    refine rxByte_writesOnlyOwned h fun q hk => ?_
    cases hk
    rfl
  case rxData => exact execRxData_writesOnlyOwned h
  case rxCsum => exact execRxCsum_writesOnlyOwned h
  case rxTimeout => exact execRxTimeout_writesOnlyOwned h
  case irqRxnePush c => exact execIrqRxnePush_next h ▸ pushIsr_writesOnlyOwned c s
  case irqRxneDrop c => exact execIrqRxneDrop_next h ▸ pushIsr_writesOnlyOwned c s
  case irqTxeEmit => exact execIrqTxeEmit_writesOnlyOwned h
  case irqTxeDone =>
    obtain ⟨-, -, -, rfl⟩ := execIrqTxeDone_next h
    rfl
  case txSend | linkSend => exact txSendOp_writesOnlyOwned h
  case txWait => exact execTxWait_writesOnlyOwned h
  case linkEnable =>
    cases h
    rfl
  case linkRecv | qPopInf => exact popInf_writesOnlyOwned h
  case perShift =>
    obtain ⟨-, rfl⟩ := execPerShift_next h
    rfl
  case qPushIsr v =>
    cases h
    exact pushIsr_writesOnlyOwned v s
  case qPushNb p =>
    cases h
    exact pushNb_writesOnlyOwned p s
  case qPopT => exact execQPopT_writesOnlyOwned h
  case semGiveIsr =>
    cases h
    rfl
  case semTake => exact execSemTake_writesOnlyOwned h

end Sys2Proof.Machine
end

section
/-! The state after reset (10_state.md R44). -/

namespace Sys2Proof.Machine

@[simp] theorem cells_resetWith (p : Params) (sp : Space) : cells (State.resetWith p) sp = [] := by
  cases sp <;> rfl

/-- Inside its space, a cell that nothing has written faults. -/
theorem memRead_of_unwritten {sp : Space} {a : Nat} {s : State} (ha : a < spaceSize s sp)
    (hget : memGet (cells s sp) a = none) : memRead sp a s = .fault (.unwrittenRead sp a) := by
  rw [memRead, if_pos ha, hget]

/-- Settles O28: the registers by evaluation, the memories because `resetWith` lists no cell. -/
theorem resetLeavesTheTableOfValues : Obligations.ResetLeavesTheTableOfValues := fun p =>
  ⟨rfl, rfl, rfl, rfl, rfl, rfl, rfl, rfl, fun sp _ ha =>
    memRead_of_unwritten ha (by rw [cells_resetWith]; rfl)⟩

theorem inv_resetWith {p : Params} (hp : p.ok = true) : Inv (State.resetWith p) :=
  have hrx : RxInv (State.resetWith p) := ⟨Nat.zero_le 30, Nat.zero_le 30, Nat.zero_lt_succ 254, trivial⟩
  have htx : TxInv (State.resetWith p) := ⟨Nat.zero_le 35, Nat.zero_le 35, Nat.zero_le 34, rfl, rfl, rfl⟩
  have hq : QueueInv (State.resetWith p) := ⟨Nat.zero_le _, Nat.zero_le _, by simp [State.resetWith]⟩
  ⟨hp, ⟨rfl, rfl, rfl, rfl⟩, hrx, htx, hq⟩

/-- Settles O29: the reset machine is `resetWith` of the default parameters. -/
theorem invariantHoldsAtReset : Obligations.InvariantHoldsAtReset :=
  ⟨inv_resetWith rfl, fun _ hp => inv_resetWith hp⟩

end Sys2Proof.Machine
end

section
/-! What the two running sums of the block do when one more byte enters them: the receive accumulator over
the data received so far, and the checksum slot of the send buffer over the frame bytes sent so far. -/

namespace Sys2Proof.Machine

theorem toNat_mod255_lt (n : Nat) : (mod255 n).toNat < 255 := by
  rw [toNat_mod255]
  exact Nat.mod_lt n (by decide)

theorem byteSum_append (as bs : List Byte) : byteSum (as ++ bs) = byteSum as + byteSum bs := by
  simp only [byteSum_eq_sum_map_toNat, List.map_append, List.sum_append]

theorem csum_append_singleton (h n : Byte) (d : List Byte) (c : Byte) :
    csum h n (d ++ [c]) = fold (csum h n d) c := by
  rw [← foldl_fold_seed_eq_csum, ← foldl_fold_seed_eq_csum, List.foldl_append]
  rfl

/-- A byte written right after a run of held bytes extends the run. -/
theorem memHolds_append_memPut {m : Memory} {bs : List Byte} (c : Byte)
    (h : memHolds m 0 bs = true) : memHolds (memPut m bs.length c) 0 (bs ++ [c]) = true := by
  rw [memHolds_iff] at h ⊢
  intro i b hb
  rw [Nat.zero_add, memGet_memPut]
  split
  next hi => simpa [hi] using hb
  next hi =>
    have hlt : i < bs.length := by
      have := (List.getElem?_eq_some_iff.1 hb).1
      rw [List.length_append, List.length_singleton] at this
      omega
    rw [List.getElem?_append_left hlt] at hb
    simpa using h i b hb

/-- A write past a run of held bytes leaves it. -/
theorem memHolds_memPut_of_le {m : Memory} {x : Nat} {bs : List Byte} (v : Byte)
    (hx : bs.length ≤ x) (h : memHolds m 0 bs = true) : memHolds (memPut m x v) 0 bs = true := by
  rw [memHolds_iff] at h ⊢
  intro i b hb
  have hlt : i < bs.length := (List.getElem?_eq_some_iff.1 hb).1
  rw [memGet_memPut_ne _ _ (by omega)]
  exact h i b hb

theorem packet_wf_iff (p : Packet) : p.wf = true ↔ p.size.toNat ≤ 30 ∧ p.data.length = p.size.toNat := by
  simp only [Packet.wf, Bool.and_eq_true, decide_eq_true_eq]
  rfl

theorem length_sendImage {p : Packet} (hp : p.wf = true) :
    (sendImage p).length = p.size.toNat + 4 := by
  simp [sendImage, ((packet_wf_iff p).1 hp).2]

theorem accumulates_iff (i len : Nat) : accumulates i len = true ↔ 1 < i ∧ i + 2 ≤ len := by
  simp [accumulates]

/-- With only the first marker sent, nothing has been added into the slot. -/
theorem slotValue_one (p : Packet) : slotValue p 1 = 0 := by
  have : min 1 (txLenOf p.size - 2) - 1 = 0 := by omega
  rw [slotValue, this]
  rfl

/-- Within the look-ahead's bounds the slot gains the byte at the new index. -/
theorem slotValue_succ_of_accumulates {p : Packet} {i : Nat} {b : Byte}
    (hacc : accumulates (i + 1) (txLenOf p.size) = true)
    (hb : (sendImage p)[i + 1]? = some b) : slotValue p (i + 1) = fold (slotValue p i) b := by
  obtain ⟨hlo, hhi⟩ := (accumulates_iff _ _).1 hacc
  obtain ⟨j, rfl⟩ : ∃ j, i = j + 1 := ⟨i - 1, by omega⟩
  have hnew : min (j + 1 + 1) (txLenOf p.size - 2) - 1 = j + 1 := by omega
  have hold : min (j + 1) (txLenOf p.size - 2) - 1 = j := by omega
  have hget : (p.header :: p.size :: p.data)[j]? = some b := by simpa [sendImage] using hb
  rw [slotValue, slotValue, hnew, hold, fold_mod255, List.take_add_one, hget, byteSum_append]
  rfl

/-- Past the look-ahead's bounds the slot is complete. -/
theorem slotValue_succ_of_not_accumulates {p : Packet} {i : Nat} (hi : 1 ≤ i)
    (hacc : accumulates (i + 1) (txLenOf p.size) = false) :
    slotValue p (i + 1) = slotValue p i := by
  have hout : ¬(1 < i + 1 ∧ i + 1 + 2 ≤ txLenOf p.size) := by
    rw [← accumulates_iff, hacc]
    exact Bool.false_ne_true
  have hpast : txLenOf p.size - 2 ≤ i := by omega
  rw [slotValue, slotValue, Nat.min_eq_right hpast, Nat.min_eq_right (by omega)]

end Sys2Proof.Machine
end

section
/-! The parts of the invariant, read in one receive state or send phase. A part that an operation does not
write carries over to the next state by definition, since its variables are projections of both states. -/

namespace Sys2Proof.Machine

theorem RxInv.awaitSize {s : State} (h : RxInv s) (hst : s.rxState = .awaitSize) :
    s.rxCsum = seed s.rxHeader := by
  obtain ⟨-, -, -, hm⟩ := h
  rwa [hst] at hm

theorem RxInv.awaitData {s : State} (h : RxInv s) (hst : s.rxState = .awaitData) :
    s.rxIndex < s.rxSize.toNat ∧
      ∃ d : List Byte, d.length = s.rxIndex ∧ memHolds s.rxData 0 d = true ∧
        s.rxCsum = csum s.rxHeader s.rxSize d := by
  obtain ⟨-, -, -, hm⟩ := h
  rw [hst] at hm
  exact hm.2

theorem RxInv.resync {s : State} (h : RxInv s) : RxInv (resync s) := by
  obtain ⟨hsize, hindex, hcsum, -⟩ := h
  exact ⟨hsize, hindex, hcsum, trivial⟩

theorem TxInv.idle {s : State} (h : TxInv s) (hph : s.txPhase = .idle) :
    s.sem = false ∧ s.txeIe = false ∧ s.tdrFull = false := by
  obtain ⟨-, -, -, hm⟩ := h
  rwa [hph] at hm

theorem TxInv.waiting {s : State} (h : TxInv s) (hph : s.txPhase = .waiting) :
    ∃ p, SendInFlight p s := by
  obtain ⟨-, -, -, hm⟩ := h
  rwa [hph] at hm

/-- The interrupt is enabled only inside a send. -/
theorem TxInv.waiting_of_txeIe {s : State} (h : TxInv s) (hie : s.txeIe = true) :
    ∃ p, SendInFlight p s := by
  cases hph : s.txPhase with
  | waiting => exact h.waiting hph
  | idle =>
    obtain ⟨-, hoff, -⟩ := h.idle hph
    rw [hoff] at hie
    cases hie

/-- The data register is full only inside a send. -/
theorem TxInv.waiting_of_tdrFull {s : State} (h : TxInv s) (hfull : s.tdrFull = true) :
    ∃ p, SendInFlight p s := by
  cases hph : s.txPhase with
  | waiting => exact h.waiting hph
  | idle =>
    obtain ⟨-, -, hempty⟩ := h.idle hph
    rw [hempty] at hfull
    cases hfull

/-- The registers of a send in flight determine the ranges of 10_state.md R20. -/
theorem SendInFlight.txInv {p : Packet} {s : State} (h : SendInFlight p s) : TxInv s := by
  have ⟨hp, hph, hlen, hcpos, _, hile, _⟩ := h
  have hsize := ((packet_wf_iff p).1 hp).1
  simp only [txLenOf, txCposOf, Config.overhead] at hlen hcpos
  refine ⟨by omega, by omega, by omega, ?_⟩
  rw [hph]
  exact ⟨p, h⟩

theorem Inv.note {s : State} (h : Inv s) (n : Note) : Inv (note n s) := h

theorem Inv.output {s : State} (h : Inv s) (o : Output) : Inv (output o s) := h

theorem Inv.resync {s : State} (h : Inv s) : Inv (resync s) := by
  obtain ⟨hpar, hmem, hrx, htx, hq⟩ := h
  exact ⟨hpar, hmem, hrx.resync, htx, hq⟩

/-! ## The queues -/

theorem Inv.popByte {s : State} {c : Byte} {q : List Byte} (h : Inv s) (hq : s.rawq = c :: q) :
    Inv { s with rawq := q } := by
  obtain ⟨hpar, hmem, hrx, htx, hraw, hpkt⟩ := h
  rw [hq, List.length_cons] at hraw
  exact ⟨hpar, hmem, hrx, htx, Nat.le_of_succ_le hraw, hpkt⟩

theorem Inv.popPacket {s : State} {p : Packet} {q : List Packet} (h : Inv s)
    (hq : s.pktq = p :: q) : Inv { s with pktq := q } := by
  obtain ⟨hpar, hmem, hrx, htx, hraw, hlen, hwf⟩ := h
  rw [hq] at hlen hwf
  exact ⟨hpar, hmem, hrx, htx, hraw, Nat.le_of_succ_le hlen,
    fun r hr => hwf r (List.mem_cons_of_mem p hr)⟩

theorem Inv.pushIsr {s : State} (h : Inv s) (v : Byte) : Inv (pushIsr v s) := by
  rcases pushIsr_cases v s with ⟨hroom, he⟩ | ⟨-, he⟩ <;> rw [he]
  · obtain ⟨hpar, hmem, hrx, htx, -, hpkt⟩ := h
    have hlt : s.rawq.length < s.params.rawqCap := by simpa [rawqFull] using hroom
    exact ⟨hpar, hmem, hrx, htx, by simpa using Nat.succ_le_of_lt hlt, hpkt⟩
  · exact h.note _

theorem Inv.pushNb {s : State} {p : Packet} (h : Inv s) (hp : p.wf = true) :
    Inv (pushNb p s) := by
  rcases pushNb_cases p s with ⟨hroom, he⟩ | ⟨-, he⟩ <;> rw [he]
  · obtain ⟨hpar, hmem, hrx, htx, hraw, -, hwf⟩ := h
    have hlt : s.pktq.length < Config.pktqCap := by simpa [pktqFull] using hroom
    refine ⟨hpar, hmem, hrx, htx, hraw, by simpa using Nat.succ_le_of_lt hlt, fun r hr => ?_⟩
    rcases List.mem_append.1 hr with hr | hr
    · exact hwf r hr
    · rwa [List.mem_singleton.1 hr]
  · exact h.note _

end Sys2Proof.Machine
end

section
/-! Every operation of the receive engine keeps the invariant: it writes receive registers and queues, and
leaves the receive registers as 10_state.md R28 says. -/

namespace Sys2Proof.Machine

/-- A pop keeps the invariant, so a byte operation does if the rule after its pop does. -/
theorem rxByte_keeps_inv {mnemonic : String} {want : RxState} {c : Byte} {ok : Bool}
    {k : State → Out State} {s t : State} (h : rxByte mnemonic want c ok k s = .next t)
    (hinv : Inv s)
    (hk : ∀ r, Inv r → r.rxState = want → ok = true → k r = .next t → Inv t) : Inv t := by
  rcases rxByte_next h with ⟨q, hq, hst, hok, hnext⟩ | ⟨-, rfl⟩
  · exact hk _ (hinv.popByte hq) hst hok hnext
  · exact hinv

theorem execRxFirstHit_keeps_inv {s t : State} (hinv : Inv s)
    (h : execRxFirstHit s = .next t) : Inv t := by
  refine rxByte_keeps_inv h hinv fun r hr _ _ hk => ?_
  obtain ⟨hpar, hmem, ⟨hsize, hindex, hcsum, -⟩, htx, hq⟩ := hr
  cases hk
  exact ⟨hpar, hmem, ⟨hsize, hindex, hcsum, trivial⟩, htx, hq⟩

theorem execRxFirstMiss_keeps_inv {c : Byte} {s t : State} (hinv : Inv s)
    (h : execRxFirstMiss c s = .next t) : Inv t := by
  refine rxByte_keeps_inv h hinv fun r hr _ _ hk => ?_
  cases hk
  exact hr.resync

theorem execRxSecondHit_keeps_inv {s t : State} (hinv : Inv s)
    (h : execRxSecondHit s = .next t) : Inv t := by
  refine rxByte_keeps_inv h hinv fun r hr _ _ hk => ?_
  obtain ⟨hpar, hmem, ⟨hsize, hindex, hcsum, -⟩, htx, hq⟩ := hr
  cases hk
  exact ⟨hpar, hmem, ⟨hsize, hindex, hcsum, trivial⟩, htx, hq⟩

theorem execRxSecondMiss_keeps_inv {c : Byte} {s t : State} (hinv : Inv s)
    (h : execRxSecondMiss c s = .next t) : Inv t := by
  refine rxByte_keeps_inv h hinv fun r hr _ _ hk => ?_
  cases hk
  exact hr.resync.note _

theorem execRxHeader_keeps_inv {c : Byte} {s t : State} (hinv : Inv s)
    (h : execRxHeader c s = .next t) : Inv t := by
  refine rxByte_keeps_inv h hinv fun r hr _ _ hk => ?_
  obtain ⟨hpar, hmem, ⟨hsize, hindex, -, -⟩, htx, hq⟩ := hr
  cases hk
  exact ⟨hpar, hmem, ⟨hsize, hindex, toNat_mod255_lt _, rfl⟩, htx, hq⟩

/-- An accepted size byte folded into the header's seed is the checksum of a packet with no data yet. -/
theorem acceptSize_csum {s : State} (h : RxInv s) (hst : s.rxState = .awaitSize) (c : Byte) :
    (acceptSize c s).rxCsum = csum s.rxHeader c [] := by
  change fold s.rxCsum c = _
  rw [h.awaitSize hst]
  exact foldl_fold_seed_eq_csum s.rxHeader c []

theorem execRxSizeZero_keeps_inv {s t : State} (hinv : Inv s)
    (h : execRxSizeZero s = .next t) : Inv t := by
  refine rxByte_keeps_inv h hinv fun r hr hst _ hk => ?_
  obtain ⟨hpar, hmem, hrx, htx, hq⟩ := hr
  cases hk
  exact ⟨hpar, hmem,
    ⟨Nat.zero_le 30, Nat.zero_le 30, toNat_mod255_lt _, rfl, [], rfl, rfl, acceptSize_csum hrx hst 0⟩,
    htx, hq⟩

theorem execRxSizeData_keeps_inv {c : Byte} {s t : State} (hinv : Inv s)
    (h : execRxSizeData c s = .next t) : Inv t := by
  refine rxByte_keeps_inv h hinv fun r hr hst hok hk => ?_
  obtain ⟨hpar, hmem, hrx, htx, hq⟩ := hr
  obtain ⟨hpos, hmax⟩ : 1 ≤ c.toNat ∧ c.toNat ≤ Config.maxData := by simpa using hok
  cases hk
  exact ⟨hpar, hmem,
    ⟨hmax, Nat.zero_le 30, toNat_mod255_lt _, hpos, hpos, [], rfl, rfl, acceptSize_csum hrx hst c⟩,
    htx, hq⟩

theorem execRxSizeReject_keeps_inv {c : Byte} {s t : State} (hinv : Inv s)
    (h : execRxSizeReject c s = .next t) : Inv t := by
  refine rxByte_keeps_inv h hinv fun r hr _ _ hk => ?_
  cases hk
  exact hr.resync.note _

/-- RX.DATA extends the data received so far by one byte; at the size the engine awaits the checksum. -/
theorem execRxData_keeps_inv {c : Byte} {s t : State} (hinv : Inv s)
    (h : execRxData c s = .next t) : Inv t := by
  rcases execRxData_next h with ⟨q, hq, hst, hlt, rfl⟩ | ⟨-, rfl⟩
  · obtain ⟨hpar, ⟨htwf, htlt, hrwf, hrlt⟩, hrx, htx, hqueue⟩ := hinv.popByte hq
    have ⟨hsize, _⟩ := hrx
    obtain ⟨hi, d, hlen, hd, hsum⟩ := hrx.awaitData hst
    simp only at hsize hi hlen hd hsum
    have hlen' : (d ++ [c]).length = s.rxIndex + 1 := by simp [hlen]
    have hd' : memHolds (memPut s.rxData s.rxIndex c) 0 (d ++ [c]) = true :=
      hlen ▸ memHolds_append_memPut c hd
    have hsum' : fold s.rxCsum c = csum s.rxHeader s.rxSize (d ++ [c]) := by
      rw [csum_append_singleton, ← hsum]
    refine ⟨hpar, ⟨htwf, htlt, memPut_wf _ _ hrwf, below_memPut _ hrlt hlt⟩,
      ⟨hsize, hlt, toNat_mod255_lt _, ?_⟩, htx, hqueue⟩
    by_cases hlast : s.rxIndex + 1 = s.rxSize.toNat
    · simp only [hlast, if_true]
      exact ⟨trivial, d ++ [c], hlen'.trans hlast, hd', hsum'⟩
    · simp only [hlast, if_false]
      exact ⟨by omega, by omega, d ++ [c], hlen', hd', hsum'⟩
  · exact hinv

/-- The packet in the receive registers meets the packet invariant, the size being in range. -/
theorem assemblePacket_wf {s : State} {p : Packet} (hrx : RxInv s)
    (h : assemblePacket s = .next p) : p.wf = true := by
  obtain ⟨-, hsize, hlen, -, -⟩ := (assemblePacket_next_iff s p).1 h
  obtain ⟨hmax, -⟩ := hrx
  rw [packet_wf_iff, hsize]
  exact ⟨hmax, hlen⟩

theorem execRxCsum_keeps_inv {c : Byte} {s t : State} (hinv : Inv s)
    (h : execRxCsum c s = .next t) : Inv t := by
  rcases execRxCsum_next h with ⟨q, hq, -, ⟨-, p, hp, rfl⟩ | ⟨-, rfl⟩⟩ | ⟨-, rfl⟩
  · have ⟨_, _, hrx, _⟩ := hinv
    exact ((hinv.popByte hq).pushNb (assemblePacket_wf hrx hp)).resync
  · exact ((hinv.popByte hq).note _).resync
  · exact hinv

theorem execRxTimeout_keeps_inv {s t : State} (hinv : Inv s)
    (h : execRxTimeout s = .next t) : Inv t := by
  rcases execRxTimeout_next h with rfl | rfl
  · exact hinv.resync
  · exact (hinv.note _).resync

end Sys2Proof.Machine
end

section
/-! Every operation of the transmit side keeps the invariant: a send loads its frame with a zero slot, each
EMIT advances the index and the slot together, DONE and TX.WAIT end the send as 41_semaphore.md R143 says. -/

namespace Sys2Proof.Machine

/-- A send that starts with the semaphore unavailable is in flight with nothing added into its slot. -/
theorem txSendOp_sendInFlight {p : Packet} {s t : State} (hsem : s.sem = false)
    (h : txSendOp p s = .next t) : SendInFlight p t := by
  obtain ⟨-, hp, -, -, rfl⟩ := (txSendOp_next_iff p s t).1 h
  have hlen := length_sendImage hp
  have hcpos : txCposOf (txLenOf p.size) = p.size.toNat + 4 := rfl
  refine ⟨hp, rfl, rfl, rfl, Nat.le_refl 1, ?_, ?_, ?_, fun _ => rfl, fun hs => ?_⟩
  · simp [txLenOf, Config.overhead]
  · exact memHolds_memPut_of_le 0 (by omega) (memHolds_memPutList _ 0 _)
  · rw [slotValue_one]
    exact memGet_memPut_same _ _ _
  · simp only [hsem] at hs
    cases hs

theorem txSendOp_keeps_memInv {p : Packet} {s t : State} (hmem : MemInv s)
    (h : txSendOp p s = .next t) : MemInv t := by
  obtain ⟨-, hp, hcap, -, rfl⟩ := (txSendOp_next_iff p s t).1 h
  obtain ⟨htwf, htlt, hrx⟩ := hmem
  have hlen := length_sendImage hp
  simp only [txLenOf, Config.overhead] at hcap
  have hcpos : txCposOf (txLenOf p.size) = p.size.toNat + 4 := rfl
  have himage : 0 + (sendImage p).length ≤ s.params.txBufCap := by omega
  have hslot : txCposOf (txLenOf p.size) < s.params.txBufCap := by omega
  exact ⟨memPut_wf _ _ (memPutList_wf 0 _ htwf),
    below_memPut _ (below_memPutList htlt himage) hslot, hrx⟩

theorem txSendOp_keeps_inv {p : Packet} {s t : State} (hinv : Inv s)
    (h : txSendOp p s = .next t) : Inv t := by
  obtain ⟨hpar, hmem, hrx, htx, hq⟩ := hinv
  obtain ⟨hidle, -, -, -, ht⟩ := (txSendOp_next_iff p s t).1 h
  obtain ⟨hsem, -, -⟩ := htx.idle hidle
  have hmem' := txSendOp_keeps_memInv hmem h
  have htx' := (txSendOp_sendInFlight hsem h).txInv
  subst ht
  exact ⟨hpar, hmem', hrx, htx', hq⟩

/-- The look-ahead writes inside the send buffer and touches no other part of the state. -/
theorem lookAhead_keeps_memInv {s t : State} (h : lookAhead s = .next t) (hmem : MemInv s) :
    MemInv t := by
  rcases (lookAhead_next_iff s t).1 h with ⟨-, slot, b, -, -, hcpos, -, rfl⟩ | ⟨-, rfl⟩
  · obtain ⟨htwf, htlt, hrx⟩ := hmem
    exact ⟨memPut_wf _ _ htwf, below_memPut _ htlt hcpos, hrx⟩
  · exact hmem

/-- Run at the index after `i`, with the slot holding its value at `i`, the look-ahead leaves the slot at
its value for the new index and the rest of the frame image as it was. -/
theorem lookAhead_slot {p : Packet} {s t : State} {i : Nat} (h : lookAhead s = .next t) (hp : p.wf = true)
    (hlen : s.txLen = txLenOf p.size) (hcpos : s.txCpos = txCposOf s.txLen) (hi : 1 ≤ i)
    (hindex : s.txIndex = i + 1) (himage : memHolds s.txBuf 0 (sendImage p) = true)
    (hslot : memGet s.txBuf s.txCpos = some (slotValue p i)) :
    memHolds t.txBuf 0 (sendImage p) = true ∧
      memGet t.txBuf s.txCpos = some (slotValue p (i + 1)) := by
  have himlen := length_sendImage hp
  have hslotpos : s.txCpos = p.size.toNat + 4 := by rw [hcpos, hlen]; rfl
  rcases (lookAhead_next_iff s t).1 h with ⟨hacc, slot, b, hs, hb, -, -, rfl⟩ | ⟨hacc, rfl⟩
  · rw [hindex, hlen] at hacc
    have hbound := ((accumulates_iff _ _).1 hacc).2
    simp only [txLenOf, Config.overhead] at hbound
    have hlt : i + 1 < (sendImage p).length := by omega
    have hread : (sendImage p)[i + 1]? = some b := by
      have hheld := (memHolds_iff _ _ _).1 himage (i + 1) _ (List.getElem?_eq_getElem hlt)
      rw [hindex] at hb
      rw [List.getElem?_eq_getElem hlt, ← hheld, Nat.zero_add, hb]
    rw [hslot] at hs
    cases hs
    refine ⟨memHolds_memPut_of_le _ (by omega) himage, ?_⟩
    rw [slotValue_succ_of_accumulates hacc hread]
    exact memGet_memPut_same _ _ _
  · rw [hindex, hlen] at hacc
    rw [slotValue_succ_of_not_accumulates hi hacc]
    exact ⟨himage, hslot⟩

/-- EMIT leaves the send in flight, one byte further. -/
theorem execIrqTxeEmit_sendInFlight {p : Packet} {s t : State} (hfly : SendInFlight p s)
    (h : execIrqTxeEmit s = .next t) : SendInFlight p t := by
  obtain ⟨hie, hlt, b, hla⟩ := execIrqTxeEmit_next h
  obtain ⟨hp, hph, hlen, hcpos, hi, -, himage, hslot, -, hdone⟩ := hfly
  have hsem : s.sem = false := by
    refine Bool.eq_false_iff.2 fun hgiven => ?_
    obtain ⟨hoff, -, -⟩ := hdone hgiven
    rw [hoff] at hie
    cases hie
  obtain ⟨himage', hslot'⟩ := lookAhead_slot hla hp hlen hcpos hi rfl himage hslot
  rw [lookAhead_frame hla]
  exact ⟨hp, hph, hlen, hcpos, Nat.le_add_left 1 _, hlt, himage', hslot', fun _ => hie,
    fun hs => absurd hs (by simp [hsem])⟩

theorem execIrqTxeEmit_keeps_inv {s t : State} (hinv : Inv s)
    (h : execIrqTxeEmit s = .next t) : Inv t := by
  obtain ⟨hpar, hmem, hrx, htx, hq⟩ := hinv
  obtain ⟨hie, -, b, hla⟩ := execIrqTxeEmit_next h
  obtain ⟨p, hfly⟩ := htx.waiting_of_txeIe hie
  have htx' := (execIrqTxeEmit_sendInFlight hfly h).txInv
  have hmem' : MemInv t := lookAhead_keeps_memInv hla hmem
  rw [lookAhead_frame hla] at htx' hmem' ⊢
  exact ⟨hpar, hmem', hrx, htx', hq⟩

/-- DONE finds the index at the end of the frame, so the send it completes is the one in flight. -/
theorem execIrqTxeDone_keeps_inv {s t : State} (hinv : Inv s)
    (h : execIrqTxeDone s = .next t) : Inv t := by
  obtain ⟨hpar, hmem, hrx, htx, hq⟩ := hinv
  obtain ⟨hie, hempty, hpast, rfl⟩ := execIrqTxeDone_next h
  obtain ⟨p, hp, hph, hlen, hcpos, hi, hile, himage, hslot, -, -⟩ := htx.waiting_of_txeIe hie
  have hfly : SendInFlight p (semGive { s with txeIe := false }) :=
    ⟨hp, hph, hlen, hcpos, hi, hile, himage, hslot, fun hs => absurd hs (by simp [semGive]),
      fun _ => ⟨rfl, Nat.le_antisymm hile hpast, hempty⟩⟩
  exact ⟨hpar, hmem, hrx, hfly.txInv, hq⟩

/-- A byte is shifted out only inside a send, which stays in flight. -/
theorem execPerShift_keeps_inv {s t : State} (hinv : Inv s)
    (h : execPerShift s = .next t) : Inv t := by
  obtain ⟨hpar, hmem, hrx, htx, hq⟩ := hinv
  obtain ⟨hfull, rfl⟩ := execPerShift_next h
  obtain ⟨p, hp, hph, hlen, hcpos, hi, hile, himage, hslot, hsend, hdone⟩ :=
    htx.waiting_of_tdrFull hfull
  have hfly : SendInFlight p { s with wireTx := s.wireTx ++ [s.tdr], tdrFull := false } := by
    refine ⟨hp, hph, hlen, hcpos, hi, hile, himage, hslot, hsend, fun hsem => ?_⟩
    obtain ⟨hoff, hend, -⟩ := hdone hsem
    exact ⟨hoff, hend, rfl⟩
  exact ⟨hpar, hmem, hrx, hfly.txInv, hq⟩

/-- TX.WAIT takes a semaphore that DONE gave, so the send it ends has the interrupt disabled and the data
register empty. -/
theorem execTxWait_keeps_inv {s t : State} (hinv : Inv s)
    (h : execTxWait s = .next t) : Inv t := by
  obtain ⟨hph, ⟨hsem, rfl⟩ | ⟨-, rfl⟩⟩ := execTxWait_next h
  · obtain ⟨hpar, hmem, hrx, htx, hq⟩ := hinv
    obtain ⟨p, -, -, -, -, -, -, -, -, -, hdone⟩ := htx.waiting hph
    obtain ⟨hoff, -, hempty⟩ := hdone hsem
    obtain ⟨hindex, hlen, hcpos, -⟩ := htx
    exact ⟨hpar, hmem, hrx, ⟨hindex, hlen, hcpos, rfl, hoff, hempty⟩, hq⟩
  · exact hinv

theorem execLinkRecv_keeps_inv {s t : State} (hinv : Inv s)
    (h : execLinkRecv s = .next t) : Inv t := by
  rcases popInf_next h with ⟨p, q, hq, hk⟩ | ⟨-, rfl⟩
  · cases hk
    exact (hinv.popPacket hq).output _
  · exact hinv

end Sys2Proof.Machine
end

section
/-! The step. A primitive run on its own may break the invariant (a give outside a send does), but no
selection word decodes to one (30_encoding.md R98). -/

namespace Sys2Proof.Machine

theorem exec_keeps_inv {i : Instr} {s t : State} (hprim : i.isPrim = false) (hinv : Inv s)
    (h : exec i s = .next t) : Inv t := by
  cases i with
  | rxFirstHit => exact execRxFirstHit_keeps_inv hinv h
  | rxFirstMiss c => exact execRxFirstMiss_keeps_inv hinv h
  | rxSecondHit => exact execRxSecondHit_keeps_inv hinv h
  | rxSecondMiss c => exact execRxSecondMiss_keeps_inv hinv h
  | rxHeader c => exact execRxHeader_keeps_inv hinv h
  | rxSizeZero => exact execRxSizeZero_keeps_inv hinv h
  | rxSizeData c => exact execRxSizeData_keeps_inv hinv h
  | rxSizeReject c => exact execRxSizeReject_keeps_inv hinv h
  | rxData c => exact execRxData_keeps_inv hinv h
  | rxCsum c => exact execRxCsum_keeps_inv hinv h
  | rxTimeout => exact execRxTimeout_keeps_inv hinv h
  | irqRxnePush c => exact execIrqRxnePush_next h ▸ hinv.pushIsr c
  | irqRxneDrop c => exact execIrqRxneDrop_next h ▸ hinv.pushIsr c
  | irqTxeEmit => exact execIrqTxeEmit_keeps_inv hinv h
  | irqTxeDone => exact execIrqTxeDone_keeps_inv hinv h
  | txSend p | linkSend p => exact txSendOp_keeps_inv hinv h
  | txWait => exact execTxWait_keeps_inv hinv h
  | linkEnable flag =>
    cases h
    exact hinv.output _
  | linkRecv => exact execLinkRecv_keeps_inv hinv h
  | perShift => exact execPerShift_keeps_inv hinv h
  | qPushIsr | qPushNb | qPopT | qPopInf | semGiveIsr | semTake => cases hprim
  | reservedState67 | reservedEv10to11 | reservedEv12to15 => cases h

/-- The invariant does not read the script. -/
theorem Inv.setScript {s : State} (h : Inv s) (es : List Event) : Inv { s with script := es } := h

/-- Settles O30: a step performs the scheduled operation, no primitive, or only consumes its event. -/
theorem everyStepKeepsTheInvariant : Obligations.EveryStepKeepsTheInvariant := by
  intro s t hinv h
  rcases step_next h with ⟨-, rfl⟩ | ⟨i, -, hprim, hexec⟩
  · exact hinv.setScript _
  · exact exec_keeps_inv hprim (hinv.setScript _) hexec

end Sys2Proof.Machine
end

section
/-! The memory primitives (20_memory.md R62): what a write changes and leaves, and the two ways an access
stops. -/

namespace Sys2Proof.Machine

/-- A cell that is not listed has no value. -/
theorem memGet_eq_none_of_unlisted {m : Memory} {a : Nat} (h : ∀ c ∈ m, c.1 ≠ a) :
    memGet m a = none := by
  induction m with
  | nil => rfl
  | cons c m ih =>
    obtain ⟨hc, hm⟩ := List.forall_mem_cons.1 h
    rw [memGet, if_neg hc, ih hm]

theorem cells_setCells_of_ne (s : State) {sp sq : Space} (m : Memory) (h : sq ≠ sp) :
    cells (setCells s sp m) sq = cells s sq := by
  cases sp <;> cases sq
  case txbuf.rxdata | rxdata.txbuf => rfl
  case txbuf.txbuf | rxdata.rxdata => exact absurd rfl h

/-- Replacing the cells of a space leaves every register. -/
theorem setCells_frame (s : State) (sp : Space) (m : Memory) :
    setCells s sp m =
      { s with txBuf := (setCells s sp m).txBuf, rxData := (setCells s sp m).rxData } := by
  cases sp <;> rfl

theorem memRead_of_outside {sp : Space} {a : Nat} {s : State} (h : spaceSize s sp ≤ a) :
    memRead sp a s = .refused (.outsideSpace sp a) := by
  rw [memRead, if_neg (Nat.not_lt.2 h)]

theorem memWrite_of_outside {sp : Space} {a : Nat} {s : State} (v : Byte)
    (h : spaceSize s sp ≤ a) : memWrite sp a v s = .refused (.outsideSpace sp a) := by
  rw [memWrite, if_neg (Nat.not_lt.2 h)]

/-- A read depends on nothing but the size of its space and the cell it reads. -/
theorem memRead_congr {sp : Space} {a : Nat} {s t : State} (hsize : spaceSize t sp = spaceSize s sp)
    (hcell : memGet (cells t sp) a = memGet (cells s sp) a) :
    memRead sp a t = memRead sp a s := by
  rw [memRead, memRead, hsize, hcell]

/-- The cell written reads the byte. -/
theorem memRead_memWrite_same {sp : Space} {a : Nat} {v : Byte} {s t : State}
    (h : memWrite sp a v s = .next t) : memRead sp a t = .next v := by
  obtain ⟨ha, rfl⟩ := (memWrite_next_iff sp a v s t).1 h
  rw [memRead_next_iff, spaceSize_setCells, cells_setCells]
  exact ⟨ha, memGet_memPut_same _ a v⟩

/-- Every other cell, of the space written or of the other one, reads as before. -/
theorem memRead_memWrite_of_ne {sp sq : Space} {a x : Nat} {v : Byte} {s t : State}
    (h : memWrite sp a v s = .next t) (hne : sq ≠ sp ∨ x ≠ a) :
    memRead sq x t = memRead sq x s := by
  obtain ⟨-, rfl⟩ := (memWrite_next_iff sp a v s t).1 h
  refine memRead_congr (spaceSize_setCells s sp sq _) ?_
  by_cases hspace : sq = sp
  · subst hspace
    have hx : x ≠ a := hne.resolve_left (not_not_intro rfl)
    rw [cells_setCells, memGet_memPut_ne _ v hx]
  · rw [cells_setCells_of_ne s _ hspace]

theorem memWrite_frame {sp : Space} {a : Nat} {v : Byte} {s t : State}
    (h : memWrite sp a v s = .next t) : t = { s with txBuf := t.txBuf, rxData := t.rxData } := by
  obtain ⟨-, rfl⟩ := (memWrite_next_iff sp a v s t).1 h
  exact setCells_frame s sp _

/-- A write keeps the canonical form of both spaces. -/
theorem memWrite_keeps_wf_both {sp : Space} {a : Nat} {v : Byte} {s t : State}
    (h : memWrite sp a v s = .next t) (htx : Memory.wf s.txBuf = true)
    (hrx : Memory.wf s.rxData = true) :
    Memory.wf t.txBuf = true ∧ Memory.wf t.rxData = true := by
  obtain ⟨-, rfl⟩ := (memWrite_next_iff sp a v s t).1 h
  cases sp with
  | txbuf => exact ⟨memPut_wf a v htx, hrx⟩
  | rxdata => exact ⟨htx, memPut_wf a v hrx⟩

/-- Settles O27: the write clause by `memWrite_next_iff`, the stops by the size of the space and the
listed cells. -/
theorem memoryPrimitivesKeepEveryOtherCell : Obligations.MemoryPrimitivesKeepEveryOtherCell := by
  intro s sp a v
  refine ⟨fun ha => ?_, fun ha hcells => ?_, fun ha => ?_⟩
  · have h := (memWrite_next_iff sp a v s _).2 ⟨ha, rfl⟩
    exact ⟨_, h, memRead_memWrite_same h, fun _ _ => memRead_memWrite_of_ne h, memWrite_frame h,
      memWrite_keeps_wf_both h⟩
  · exact memRead_of_unwritten ha (memGet_eq_none_of_unlisted hcells)
  · exact ⟨memRead_of_outside ha, memWrite_of_outside v ha⟩

end Sys2Proof.Machine
end

section
/-! A selection word is its four fields (30_encoding.md R95), and the decoder reads them: an equation for each
event kind. -/

namespace Sys2Proof

theorem getLsbD_selWord (ev : BitVec 4) (g : BitVec 1) (s : BitVec 3) (c : Byte) (i : Nat) :
    (selWord ev g s c).getLsbD i =
      if i < 8 then c.getLsbD i
      else if i < 11 then s.getLsbD (i - 8)
      else if i < 12 then g.getLsbD (i - 11)
      else ev.getLsbD (i - 12) := by
  rw [selWord, BitVec.getLsbD_append, BitVec.getLsbD_append, BitVec.getLsbD_append]
  grind

@[simp] theorem swEv_selWord (ev : BitVec 4) (g : BitVec 1) (s : BitVec 3) (c : Byte) :
    swEv (selWord ev g s c) = ev := by
  apply BitVec.eq_of_getLsbD_eq
  intro i hi
  rw [swEv, BitVec.getLsbD_extractLsb', getLsbD_selWord]
  grind

@[simp] theorem swG_selWord (ev : BitVec 4) (g : BitVec 1) (s : BitVec 3) (c : Byte) :
    swG (selWord ev g s c) = g := by
  apply BitVec.eq_of_getLsbD_eq
  intro i hi
  rw [swG, BitVec.getLsbD_extractLsb', getLsbD_selWord]
  grind

@[simp] theorem swS_selWord (ev : BitVec 4) (g : BitVec 1) (s : BitVec 3) (c : Byte) :
    swS (selWord ev g s c) = s := by
  apply BitVec.eq_of_getLsbD_eq
  intro i hi
  rw [swS, BitVec.getLsbD_extractLsb', getLsbD_selWord]
  grind

/-- A word is its four fields. -/
theorem selWord_fields (w : SelWord) : selWord (swEv w) (swG w) (swS w) (swC w) = w := by
  apply BitVec.eq_of_getLsbD_eq
  intro i hi
  rw [getLsbD_selWord, swEv, swG, swS, swC]
  simp only [BitVec.getLsbD_extractLsb']
  grind

theorem word_eq_iff_fields {v w : SelWord} :
    v = w ↔ swEv v = swEv w ∧ swG v = swG w ∧ swS v = swS w ∧ swC v = swC w := by
  constructor
  · rintro rfl
    exact ⟨rfl, rfl, rfl, rfl⟩
  · rintro ⟨hev, hg, hs, hc⟩
    rw [← selWord_fields v, hev, hg, hs, hc, selWord_fields]

/-! ## The decoder, an equation for each event kind (30_encoding.md R96 to R98) -/

section
variable (g : BitVec 1) (s : BitVec 3) (c : Byte) (p : Packet)

theorem decode_rxByte : decode ⟨selWord 0 g s c, p⟩ = decodeRxByte s c := by
  simp [decode, swC_selWord]

theorem decode_rxTimeout : decode ⟨selWord 1 g s c, p⟩ = .rxTimeout := by
  simp [decode]

theorem decode_irqRxne :
    decode ⟨selWord 2 g s c, p⟩ = if g = 0#1 then .irqRxnePush c else .irqRxneDrop c := by
  simp [decode, swC_selWord]

theorem decode_irqTxe :
    decode ⟨selWord 3 g s c, p⟩ = if g = 1#1 then .irqTxeEmit else .irqTxeDone := by
  simp [decode]

theorem decode_txSend : decode ⟨selWord 4 g s c, p⟩ = .txSend p := by
  simp [decode]

theorem decode_txWait : decode ⟨selWord 5 g s c, p⟩ = .txWait := by
  simp [decode]

theorem decode_linkEnable : decode ⟨selWord 6 g s c, p⟩ = .linkEnable (c.getLsbD 0) := by
  simp [decode, swC_selWord]

theorem decode_linkSend : decode ⟨selWord 7 g s c, p⟩ = .linkSend p := by
  simp [decode]

theorem decode_linkRecv : decode ⟨selWord 8 g s c, p⟩ = .linkRecv := by
  simp [decode]

theorem decode_perShift : decode ⟨selWord 9 g s c, p⟩ = .perShift := by
  simp [decode]

theorem decode_reservedEv10 : decode ⟨selWord 10 g s c, p⟩ = .reservedEv10to11 := by
  simp [decode]

theorem decode_reservedEv11 : decode ⟨selWord 11 g s c, p⟩ = .reservedEv10to11 := by
  simp [decode]

theorem decode_reservedEv12to15 {ev : BitVec 4} (hev : 12 ≤ ev.toNat) :
    decode ⟨selWord ev g s c, p⟩ = .reservedEv12to15 := by
  simp only [decode, swEv_selWord]
  split
  case h_13 => rfl
  all_goals omega

end

end Sys2Proof
end

section
/-! The selection table read field by field (30_encoding.md R97 and R98). The event kind leaves one row, or
two that the guard bit tells apart, or the rows of kind 0, of which the state code leaves those of one
receive state and the byte operand one. -/

namespace Sys2Proof

/-! A row's mask, match value and constraint, field by field of the word. -/

def TableRow.kindMeets (r : TableRow) (ev : BitVec 4) : Bool := ev &&& swEv r.mask == swEv r.value

def TableRow.guardMeets (r : TableRow) (g : BitVec 1) : Bool := g &&& swG r.mask == swG r.value

def TableRow.stateMeets (r : TableRow) (s : BitVec 3) : Bool := s &&& swS r.mask == swS r.value

def TableRow.byteMeets (r : TableRow) (c : Byte) : Bool :=
  (c &&& swC r.mask == swC r.value) && r.constraint c

/-- A row accepts a word field by field. -/
theorem TableRow.accepts_selWord (r : TableRow) (ev : BitVec 4) (g : BitVec 1) (s : BitVec 3)
    (c : Byte) :
    r.accepts (selWord ev g s c) =
      (r.kindMeets ev && r.guardMeets g && r.stateMeets s && r.byteMeets c) := by
  have hev : swEv (selWord ev g s c &&& r.mask) = ev &&& swEv r.mask :=
    BitVec.extractLsb'_and.trans (congrArg (· &&& _) (swEv_selWord ev g s c))
  have hg : swG (selWord ev g s c &&& r.mask) = g &&& swG r.mask :=
    BitVec.extractLsb'_and.trans (congrArg (· &&& _) (swG_selWord ev g s c))
  have hs : swS (selWord ev g s c &&& r.mask) = s &&& swS r.mask :=
    BitVec.extractLsb'_and.trans (congrArg (· &&& _) (swS_selWord ev g s c))
  have hc : swC (selWord ev g s c &&& r.mask) = c &&& swC r.mask :=
    BitVec.extractLsb'_and.trans (congrArg (· &&& _) (swC_selWord ev g s c))
  rw [Bool.eq_iff_iff]
  simp only [TableRow.accepts, kindMeets, guardMeets, stateMeets, byteMeets, Bool.and_eq_true,
    beq_iff_eq, word_eq_iff_fields, hev, hg, hs, hc, swC_selWord, and_assoc]

/-- The rows of an event kind. -/
def rowsOfKind (ev : BitVec 4) : List TableRow := selectionTable.filter (·.kindMeets ev)

/-- The rows of kind 0 of a state code. -/
def rowsOfState (s : BitVec 3) : List TableRow := (rowsOfKind 0).filter (·.stateMeets s)

theorem acceptingRows_selWord (ev : BitVec 4) (g : BitVec 1) (s : BitVec 3) (c : Byte) :
    acceptingRows (selWord ev g s c) =
      ((rowsOfKind ev).filter fun r => r.guardMeets g && r.stateMeets s && r.byteMeets c).map
        (·.mnemonic) := by
  rw [acceptingRows, rowsOfKind, List.filter_filter]
  congr 2
  funext r
  rw [TableRow.accepts_selWord]
  ac_rfl

/-- No row of kind 0 reads the guard bit, so the state code and the byte operand select among them. -/
theorem acceptingRows_rxByte (g : BitVec 1) (s : BitVec 3) (c : Byte) :
    acceptingRows (selWord 0 g s c) =
      ((rowsOfState s).filter (·.byteMeets c)).map (·.mnemonic) := by
  have hguard : ∀ r ∈ rowsOfKind 0, r.guardMeets g = true := by
    revert g
    decide
  rw [acceptingRows_selWord, rowsOfState, List.filter_filter]
  congr 1
  refine List.filter_congr fun r hr => ?_
  rw [hguard r hr, Bool.true_and, Bool.and_comm]

/-- A kind with one row, which reads no other field: every word of it is accepted by that row. -/
theorem acceptingRows_of_oneRow {ev me ve : BitVec 4} {g : BitVec 1} {s : BitVec 3} {c : Byte}
    {p : Packet} {i : Instr} (hdec : decode ⟨selWord ev g s c, p⟩ = i)
    (hrows : rowsOfKind ev = [freeRow i.mnemonic (selWord me 0 0 0) (selWord ve 0 0 0)]) :
    acceptingRows (selWord ev g s c) = [(decode ⟨selWord ev g s c, p⟩).mnemonic] := by
  rw [hdec, acceptingRows_selWord, hrows]
  simp [freeRow, TableRow.guardMeets, TableRow.stateMeets, TableRow.byteMeets, swC_selWord]

/-- A kind with two rows, one for each value of the guard bit. -/
theorem acceptingRows_of_guardedRows {ev : BitVec 4} {ga : BitVec 1} {g : BitVec 1} {s : BitVec 3}
    {c : Byte} {p : Packet} {i j : Instr}
    (hdec : decode ⟨selWord ev g s c, p⟩ = if g = ga then i else j)
    (hrows : rowsOfKind ev =
      [freeRow i.mnemonic (selWord 15 1 0 0) (selWord ev ga 0 0),
        freeRow j.mnemonic (selWord 15 1 0 0) (selWord ev (~~~ga) 0 0)]) :
    acceptingRows (selWord ev g s c) = [(decode ⟨selWord ev g s c, p⟩).mnemonic] := by
  have hflip : ∀ a b : BitVec 1, a = ~~~b ↔ ¬a = b := by decide
  have hone (b : BitVec 1) : b &&& 1#1 = b := BitVec.and_allOnes
  rw [hdec, acceptingRows_selWord, hrows]
  by_cases hg : g = ga <;>
    simp [freeRow, TableRow.guardMeets, TableRow.stateMeets, TableRow.byteMeets, swC_selWord, hone,
      hflip, hg]

/-! ## The rows of kind 0, by state code -/

theorem byte_and_ones (c : Byte) : c &&& 255#8 = c := BitVec.and_allOnes

/-- The top three bits of a byte are clear when it is below 32. -/
theorem byte_and_top_eq_zero_iff (c : Byte) : c &&& 0xE0#8 = 0#8 ↔ c.toNat < 32 := by
  revert c
  decide

/-- A state code that hunts for a start marker has one row for it and one for every other byte. -/
theorem acceptingRows_of_markerRows {s : BitVec 3} {c : Byte} {hit miss : Instr}
    {hitValue missValue : SelWord} (g : BitVec 1)
    (hdec : decodeRxByte s c = if c = Config.startByte then hit else miss)
    (hhit : swC hitValue = 0xAA) (hmiss : swC missValue = 0)
    (hrows : rowsOfState s =
      [freeRow hit.mnemonic 0xF7FF hitValue,
        { freeRow miss.mnemonic 0xF700 missValue with constraint := fun c => c != 0xAA }]) :
    acceptingRows (selWord 0 g s c) = [(decodeRxByte s c).mnemonic] := by
  have hmasks : swC 0xF7FF#16 = 255#8 ∧ swC 0xF700#16 = 0#8 := ⟨rfl, rfl⟩
  obtain ⟨hones, hzeros⟩ := hmasks
  rw [hdec, acceptingRows_rxByte, hrows]
  by_cases hc : c = 0xAA#8 <;>
    simp [freeRow, TableRow.byteMeets, Config.startByte, byte_and_ones, hones, hzeros, hhit, hmiss, hc]

/-- The three ranges of a size byte, 0, 1 to 30 and 31 to 255, exclude each other. -/
theorem acceptingRows_rxSize (g : BitVec 1) (c : Byte) :
    acceptingRows (selWord 0 g 3 c) = [(decodeRxByte 3 c).mnemonic] := by
  have hrows : rowsOfState 3 =
      [freeRow "RX.SIZE.ZERO" 0xF7FF 0x0300,
        { freeRow "RX.SIZE.DATA" 0xF7E0 0x0300 with
          constraint := fun c => decide (1 ≤ c.toNat) && decide (c.toNat ≤ 30) },
        { freeRow "RX.SIZE.REJECT" 0xF700 0x0300 with
          constraint := fun c => decide (31 ≤ c.toNat) }] := rfl
  have hzero : c = 0#8 ↔ c.toNat = 0 := by bv_omega
  rw [acceptingRows_rxByte, hrows]
  rcases Nat.eq_zero_or_pos c.toNat with h0 | hpos
  · have hc : c = 0#8 := hzero.2 h0
    subst hc
    simp [freeRow, TableRow.byteMeets, swC, decodeRxByte, Instr.mnemonic]
  · by_cases hmax : c.toNat ≤ 30
    · have htop := (byte_and_top_eq_zero_iff c).2 (by omega)
      simp [freeRow, TableRow.byteMeets, swC, decodeRxByte, Config.maxData, byte_and_ones,
        Instr.mnemonic, hzero, htop, hmax, show 1 ≤ c.toNat from hpos, show c.toNat ≠ 0 by omega,
        show ¬31 ≤ c.toNat by omega]
    · simp [freeRow, TableRow.byteMeets, swC, decodeRxByte, Config.maxData, byte_and_ones,
        Instr.mnemonic, hzero, hmax, show c.toNat ≠ 0 by omega, show 31 ≤ c.toNat by omega]

/-- A state code with one row, which puts no condition on the byte operand. -/
theorem acceptingRows_of_oneState {s : BitVec 3} {c : Byte} {i : Instr} {mask value : SelWord}
    (g : BitVec 1) (hdec : decodeRxByte s c = i) (hm : swC mask = 0) (hv : swC value = 0)
    (hrows : rowsOfState s = [freeRow i.mnemonic mask value]) :
    acceptingRows (selWord 0 g s c) = [(decodeRxByte s c).mnemonic] := by
  rw [hdec, acceptingRows_rxByte, hrows]
  simp [freeRow, TableRow.byteMeets, hm, hv]

theorem acceptingRows_kindZero (g : BitVec 1) (s : BitVec 3) (c : Byte) :
    acceptingRows (selWord 0 g s c) = [(decodeRxByte s c).mnemonic] := by
  obtain ⟨s⟩ := s
  fin_cases s
  · exact acceptingRows_of_markerRows (hitValue := 0x00AA) (missValue := 0) g rfl rfl rfl rfl
  · exact acceptingRows_of_markerRows (hitValue := 0x01AA) (missValue := 0x0100) g rfl rfl rfl rfl
  · exact acceptingRows_of_oneState (mask := 0xF700) (value := 0x0200) g rfl rfl rfl rfl
  · exact acceptingRows_rxSize g c
  · exact acceptingRows_of_oneState (mask := 0xF700) (value := 0x0400) g rfl rfl rfl rfl
  · exact acceptingRows_of_oneState (mask := 0xF700) (value := 0x0500) g rfl rfl rfl rfl
  · exact acceptingRows_of_oneState (mask := 0xF600) (value := 0x0600) g rfl rfl rfl rfl
  · exact acceptingRows_of_oneState (mask := 0xF600) (value := 0x0600) g rfl rfl rfl rfl

theorem acceptingRows_decode (ev : BitVec 4) (g : BitVec 1) (s : BitVec 3) (c : Byte) (p : Packet) :
    acceptingRows (selWord ev g s c) = [(decode ⟨selWord ev g s c, p⟩).mnemonic] := by
  obtain ⟨ev⟩ := ev
  fin_cases ev
  · exact (acceptingRows_kindZero g s c).trans
      (congrArg ([Instr.mnemonic ·]) (decode_rxByte g s c p).symm)
  · exact acceptingRows_of_oneRow (me := 15) (ve := 1) (decode_rxTimeout g s c p) rfl
  · exact acceptingRows_of_guardedRows (ga := 0) (decode_irqRxne g s c p) rfl
  · exact acceptingRows_of_guardedRows (ga := 1) (decode_irqTxe g s c p) rfl
  · exact acceptingRows_of_oneRow (me := 15) (ve := 4) (decode_txSend g s c p) rfl
  · exact acceptingRows_of_oneRow (me := 15) (ve := 5) (decode_txWait g s c p) rfl
  · exact acceptingRows_of_oneRow (me := 15) (ve := 6) (decode_linkEnable g s c p) rfl
  · exact acceptingRows_of_oneRow (me := 15) (ve := 7) (decode_linkSend g s c p) rfl
  · exact acceptingRows_of_oneRow (me := 15) (ve := 8) (decode_linkRecv g s c p) rfl
  · exact acceptingRows_of_oneRow (me := 15) (ve := 9) (decode_perShift g s c p) rfl
  · exact acceptingRows_of_oneRow (me := 14) (ve := 10) (decode_reservedEv10 g s c p) rfl
  · exact acceptingRows_of_oneRow (me := 14) (ve := 10) (decode_reservedEv11 g s c p) rfl
  all_goals
    exact acceptingRows_of_oneRow (me := 12) (ve := 12)
      (decode_reservedEv12to15 g s c p (by decide)) rfl

/-- Settles O2: a word is its four fields, and `acceptingRows_decode` goes through the event kinds. -/
theorem everySelectionWordHasExactlyOneRow : Obligations.EverySelectionWordHasExactlyOneRow := by
  rintro ⟨w, p⟩
  rw [← selWord_fields w]
  exact acceptingRows_decode _ _ _ _ p

/-- The row that accepts a word is the one its instruction stands for. -/
theorem mnemonic_decode_of_accepts {r : TableRow} {sel : Selection} (hr : r ∈ selectionTable)
    (hw : r.accepts sel.word = true) : (decode sel).mnemonic = r.mnemonic := by
  have hmem : r.mnemonic ∈ acceptingRows sel.word :=
    List.mem_map_of_mem (List.mem_filter.2 ⟨hr, hw⟩)
  rw [everySelectionWordHasExactlyOneRow sel, List.mem_singleton] at hmem
  exact hmem.symm

end Sys2Proof
end

section
/-! Decoding after encoding (30_encoding.md R95 to R98). -/

namespace Sys2Proof

/-- The two bytes of a word, the less significant first, put together again are the word. -/
theorem decodeBytes_bytesOfNat (w : SelWord) (p : Packet) :
    decodeBytes (bytesOfNat 2 w.toNat) p = .ok (decode ⟨w, p⟩) := by
  have hword : BitVec.ofNat 8 (w.toNat / 256) ++ BitVec.ofNat 8 w.toNat = w := by
    have hw := w.isLt
    have hlo : w.toNat % 2 ^ 8 < 2 ^ 8 := Nat.mod_lt _ (by decide)
    apply BitVec.eq_of_toNat_eq
    rw [BitVec.toNat_append, BitVec.toNat_ofNat, BitVec.toNat_ofNat,
      ← Nat.shiftLeft_add_eq_or_of_lt hlo, Nat.shiftLeft_eq]
    omega
  rw [bytesOfNat, bytesOfNat, bytesOfNat, decodeBytes, hword]

/-- The constraint column tells apart the rows that share a state code, so the decoder reads back each
well-formed instruction that no other row's operation shares its pattern with. -/
theorem decode_encode {i : Instr} (hwf : i.wf = true) (hprim : i.isPrim = false) :
    decode (encode i) = i := by
  cases i with
  | rxFirstHit => exact decode_rxByte 0 0 Config.startByte Packet.zero
  | rxFirstMiss c =>
    have hc : c ≠ Config.startByte := of_decide_eq_true hwf
    exact (decode_rxByte 0 0 c Packet.zero).trans (if_neg hc)
  | rxSecondHit => exact decode_rxByte 0 1 Config.startByte Packet.zero
  | rxSecondMiss c =>
    have hc : c ≠ Config.startByte := of_decide_eq_true hwf
    exact (decode_rxByte 0 1 c Packet.zero).trans (if_neg hc)
  | rxHeader c => exact decode_rxByte 0 2 c Packet.zero
  | rxSizeZero => exact decode_rxByte 0 3 0 Packet.zero
  | rxSizeData c =>
    obtain ⟨hpos, hmax⟩ : 1 ≤ c.toNat ∧ c.toNat ≤ Config.maxData := by simpa [Instr.wf] using hwf
    have hc : c ≠ 0#8 := by bv_omega
    exact (decode_rxByte 0 3 c Packet.zero).trans ((if_neg hc).trans (if_pos hmax))
  | rxSizeReject c =>
    have hmax : ¬c.toNat ≤ Config.maxData := Nat.not_le.2 (of_decide_eq_true hwf)
    have hc : c ≠ 0#8 := by
      rintro rfl
      exact hmax (Nat.zero_le _)
    exact (decode_rxByte 0 3 c Packet.zero).trans ((if_neg hc).trans (if_neg hmax))
  | rxData c => exact decode_rxByte 0 4 c Packet.zero
  | rxCsum c => exact decode_rxByte 0 5 c Packet.zero
  | rxTimeout => exact decode_rxTimeout 0 0 0 Packet.zero
  | irqRxnePush c => exact decode_irqRxne 0 0 c Packet.zero
  | irqRxneDrop c => exact decode_irqRxne 1 0 c Packet.zero
  | irqTxeEmit => exact decode_irqTxe 1 0 0 Packet.zero
  | irqTxeDone => exact decode_irqTxe 0 0 0 Packet.zero
  | txSend p => exact decode_txSend 0 0 0 p
  | txWait => exact decode_txWait 0 0 0 Packet.zero
  | linkEnable flag =>
    cases flag with
    | false => exact decode_linkEnable 0 0 0 Packet.zero
    | true => exact decode_linkEnable 0 0 1 Packet.zero
  | linkSend p => exact decode_linkSend 0 0 0 p
  | linkRecv => exact decode_linkRecv 0 0 0 Packet.zero
  | perShift => exact decode_perShift 0 0 0 Packet.zero
  | qPushIsr | qPushNb | qPopT | qPopInf | semGiveIsr | semTake => cases hprim
  | reservedState67 => exact decode_rxByte 0 6 0 Packet.zero
  | reservedEv10to11 => exact decode_reservedEv10 0 0 0 Packet.zero
  | reservedEv12to15 => exact decode_reservedEv12to15 0 0 0 Packet.zero (by decide)

/-- Settles O1: the two bytes of a word decode as the word does, and the word to its instruction. -/
theorem decodeReadsBackEveryEncoding : Obligations.DecodeReadsBackEveryEncoding := by
  intro i hwf hprim
  have hdec := decode_encode hwf hprim
  refine ⟨hdec, ?_⟩
  rw [decodeBytes_bytesOfNat]
  exact congrArg Except.ok hdec

/-- Settles O3: the decoder evaluates on each of the seven words. -/
theorem writtenWordsDecodeToTheirRows : Obligations.WrittenWordsDecodeToTheirRows :=
  ⟨rfl, rfl, rfl, rfl, rfl, rfl, rfl⟩

end Sys2Proof
end

section
/-! The words put forward of the rows no agent produces (30_encoding.md R98). -/

namespace Sys2Proof.Machine

/-- The rows no agent produces have no operand, so their mnemonics name them. -/
theorem eq_of_mnemonic_eq_of_no_agent {i j : Instr} (hj : j.agent = none)
    (h : i.mnemonic = j.mnemonic) : i = j := by
  cases j <;> cases hj
  case reservedState67 | reservedEv10to11 | reservedEv12to15 =>
    cases i <;> simp [Instr.mnemonic] at h ⊢

/-- A word put forward that meets the pattern of a row no agent produces selects that row. -/
theorem selected_present_of_no_agent {j : Instr} {mask value w : SelWord} (s : State)
    (hrow : freeRow j.mnemonic mask value ∈ selectionTable) (hj : j.agent = none)
    (hw : w &&& mask = value) : selected s (.present w) = some j := by
  have haccepts : (freeRow j.mnemonic mask value).accepts w = true := by
    simp [TableRow.accepts, freeRow, hw]
  have hname := mnemonic_decode_of_accepts (sel := selectionOf w) hrow haccepts
  exact congrArg some (eq_of_mnemonic_eq_of_no_agent hj hname)

/-- Settles O25: the refusals are what the three meanings say; the patterns are rows of the table, and the
row that accepts a word is the one the decoder names. -/
theorem reservedRowsAreRefused : Obligations.ReservedRowsAreRefused := fun s =>
  ⟨rfl, rfl, rfl, fun _ =>
    ⟨selected_present_of_no_agent s (List.getElem_mem (l := selectionTable) (n := 21) (by decide)) rfl,
      selected_present_of_no_agent s (List.getElem_mem (l := selectionTable) (n := 22) (by decide)) rfl,
      selected_present_of_no_agent s (List.getElem_mem (l := selectionTable) (n := 23) (by decide)) rfl⟩⟩

end Sys2Proof.Machine
end

section
/-! What each event performs (30_encoding.md R104), and the holds and refusals of the events that are not
legal. -/

namespace Sys2Proof.Machine

/-! ## What each event selects -/

theorem selected_step_of_empty {s : State} (h : s.rawq = []) : selected s .step = none := by
  rw [selected, select, h, Option.map_none]

theorem selected_step_of_byte {s : State} {c : Byte} {q : List Byte} (h : s.rawq = c :: q) :
    selected s .step = some (decodeRxByte (rxStateCode s.rxState) c) := by
  rw [selected, select, h]
  exact congrArg some (decode_rxByte 0 _ c Packet.zero)

theorem selected_timeout (s : State) : selected s .timeout = some .rxTimeout :=
  congrArg some (decode_rxTimeout 0 0 0 Packet.zero)

theorem selected_rx (b : Byte) (s : State) :
    selected s (.rx b) = some (if rawqFull s then .irqRxneDrop b else .irqRxnePush b) := by
  refine congrArg some ((decode_irqRxne _ 0 b Packet.zero).trans ?_)
  cases rawqFull s <;> rfl

theorem selected_txe (s : State) :
    selected s .txe = some (if txInFrame s then .irqTxeEmit else .irqTxeDone) := by
  refine congrArg some ((decode_irqTxe _ 0 0 Packet.zero).trans ?_)
  cases txInFrame s <;> rfl

theorem selected_send (p : Packet) (s : State) : selected s (.send p) = some (.txSend p) :=
  congrArg some (decode_txSend 0 0 0 p)

theorem selected_linkSend (p : Packet) (s : State) : selected s (.linkSend p) = some (.linkSend p) :=
  congrArg some (decode_linkSend 0 0 0 p)

theorem selected_wait (s : State) : selected s .wait = some .txWait :=
  congrArg some (decode_txWait 0 0 0 Packet.zero)

theorem selected_enable (flag : Bool) (s : State) :
    selected s (.enable flag) = some (.linkEnable flag) := by
  refine congrArg some ((decode_linkEnable 0 0 _ Packet.zero).trans ?_)
  cases flag <;> rfl

theorem selected_recv (s : State) : selected s .recv = some .linkRecv :=
  congrArg some (decode_linkRecv 0 0 0 Packet.zero)

theorem selected_shift (s : State) : selected s .shift = some .perShift :=
  congrArg some (decode_perShift 0 0 0 Packet.zero)

theorem decodeRxByte_awaitFirstStart (c : Byte) :
    decodeRxByte (rxStateCode .awaitFirstStart) c =
      if c = Config.startByte then .rxFirstHit else .rxFirstMiss c := rfl

theorem decodeRxByte_awaitSecondStart (c : Byte) :
    decodeRxByte (rxStateCode .awaitSecondStart) c =
      if c = Config.startByte then .rxSecondHit else .rxSecondMiss c := rfl

theorem decodeRxByte_awaitSize (c : Byte) :
    decodeRxByte (rxStateCode .awaitSize) c =
      if c = 0 then .rxSizeZero
      else if c.toNat ≤ Config.maxData then .rxSizeData c else .rxSizeReject c := rfl

/-! ## What each event performs -/

theorem perform_of_selected {s : State} {e : Event} {i : Instr} (h : selected s e = some i) :
    perform e s = exec i s := by
  rw [perform, h]

theorem perform_step_of_empty {s : State} (h : s.rawq = []) : perform .step s = .next s := by
  rw [perform, selected_step_of_empty h]

theorem perform_step_of_byte {s : State} {c : Byte} {q : List Byte} (h : s.rawq = c :: q) :
    perform .step s = exec (decodeRxByte (rxStateCode s.rxState) c) s :=
  perform_of_selected (selected_step_of_byte h)

theorem perform_timeout (s : State) : perform .timeout s = execRxTimeout s :=
  perform_of_selected (selected_timeout s)

/-- The IRQ.RXNE operation that is selected finds its guard true, and both push. -/
theorem perform_rx (b : Byte) (s : State) : perform (.rx b) s = .next (pushIsr b s) := by
  rw [perform_of_selected (selected_rx b s)]
  split
  next hfull => simp [exec, execIrqRxneDrop, hfull]
  next hroom => simp [exec, execIrqRxnePush, hroom]

theorem perform_txe_of_inFrame {s : State} (h : s.txIndex < s.txLen) :
    perform .txe s = execIrqTxeEmit s := by
  rw [perform_of_selected (selected_txe s), if_pos ((txInFrame_iff s).2 h)]
  rfl

theorem perform_txe_of_past {s : State} (h : s.txLen ≤ s.txIndex) :
    perform .txe s = execIrqTxeDone s := by
  rw [perform_of_selected (selected_txe s), if_neg (mt (txInFrame_iff s).1 (Nat.not_lt.2 h))]
  rfl

theorem perform_send (p : Packet) (s : State) : perform (.send p) s = txSendOp p s :=
  perform_of_selected (selected_send p s)

theorem perform_linkSend (p : Packet) (s : State) : perform (.linkSend p) s = txSendOp p s :=
  perform_of_selected (selected_linkSend p s)

theorem perform_wait (s : State) : perform .wait s = execTxWait s :=
  perform_of_selected (selected_wait s)

theorem perform_enable (flag : Bool) (s : State) :
    perform (.enable flag) s = .next (output .enableReturned s) :=
  perform_of_selected (selected_enable flag s)

theorem perform_recv (s : State) : perform .recv s = execLinkRecv s :=
  perform_of_selected (selected_recv s)

theorem perform_shift (s : State) : perform .shift s = execPerShift s :=
  perform_of_selected (selected_shift s)

/-! ## The step -/

theorem step_of_script {s : State} {e : Event} {es : List Event} (hs : s.script = e :: es) :
    step s = perform e { s with script := es } := by
  rw [step, hs]

/-- Settles O4: a step performs the next event, and what an event performs is what it selects. -/
theorem stepRunsTheSelectedOperation : Obligations.StepRunsTheSelectedOperation := by
  intro s
  refine ⟨fun e es i hs hi => ?_, fun es hs hq => ?_, fun hs => ?_⟩
  · rw [step_of_script hs, perform_of_selected hi]
  · rw [step_of_script hs]
    exact perform_step_of_empty hq
  · rw [step, hs]

/-! ## Where an operation holds or is refused -/

theorem execLinkRecv_of_empty {s : State} (h : s.pktq = []) : execLinkRecv s = .next s := by
  rw [execLinkRecv, popInf, h]

theorem execLinkRecv_of_packet {s : State} {p : Packet} {q : List Packet} (h : s.pktq = p :: q) :
    execLinkRecv s = .next (output (.received p) { s with pktq := q }) := by
  rw [execLinkRecv, popInf, h]

theorem execTxWait_of_idle {s : State} (h : s.txPhase = .idle) :
    execTxWait s = .refused .waitOutsideSend := by
  simp [execTxWait, h]

theorem execTxWait_of_held {s : State} (hph : s.txPhase = .waiting) (hsem : s.sem = false) :
    execTxWait s = .next s := by
  simp [execTxWait, semTake, semAvail, hph, hsem]

theorem execTxWait_of_available {s : State} (hph : s.txPhase = .waiting) (hsem : s.sem = true) :
    execTxWait s = .next (output .sendReturned { s with sem := false, txPhase := .idle }) := by
  simp [execTxWait, semTake, semAvail, hph, hsem]

theorem execRxTimeout_of_byte {s : State} (h : s.rawq ≠ []) :
    execRxTimeout s = .refused .timeoutWithByteQueued := by
  obtain ⟨c, q, hq⟩ := List.exists_cons_of_ne_nil h
  simp [execRxTimeout, popT, hq]

theorem execRxTimeout_of_empty {s : State} (h : s.rawq = []) :
    execRxTimeout s =
      .next (resync (if s.rxState = .awaitFirstStart then s else note (.ev4 s.rxState) s)) := by
  simp [execRxTimeout, popT, h]

theorem execPerShift_of_empty {s : State} (h : s.tdrFull = false) :
    execPerShift s = .refused .nothingToShift := by
  simp [execPerShift, h]

/-- The state PER.SHIFT answers. -/
def shifted (s : State) : State := { s with wireTx := s.wireTx ++ [s.tdr], tdrFull := false }

theorem execPerShift_of_full {s : State} (h : s.tdrFull = true) :
    execPerShift s = .next (shifted s) := by
  simp [execPerShift, shifted, h]

theorem execIrqTxeEmit_of_no_request {s : State} (h : txeReq s = false) :
    execIrqTxeEmit s = .refused .noTxeRequest := by
  rw [execIrqTxeEmit, inHandler_eq, if_pos h]

theorem execIrqTxeDone_of_no_request {s : State} (h : txeReq s = false) :
    execIrqTxeDone s = .refused .noTxeRequest := by
  rw [execIrqTxeDone, inHandler_eq, if_pos h]

/-- Settles O32, event by event: the operation it performs finds the queue empty, the semaphore taken, or
its requirement broken. -/
theorem illegalEventHoldsOrIsRefused : Obligations.IllegalEventHoldsOrIsRefused := by
  intro s
  refine ⟨fun h => ?step, fun h => ?recv, fun h hph => ?held, fun _ hph => ?outside,
    fun h => ?timeout, fun h => ?shift, fun h => ?txe⟩
  case step => exact perform_step_of_empty (by simpa [legal, rawqEmpty] using h)
  case recv =>
    rw [perform_recv]
    exact execLinkRecv_of_empty (by simpa [legal, pktqEmpty] using h)
  case held =>
    rw [perform_wait]
    exact execTxWait_of_held hph (by simpa [legal, semAvail, hph] using h)
  case outside => rw [perform_wait, execTxWait_of_idle hph]
  case timeout =>
    rw [perform_timeout]
    exact execRxTimeout_of_byte (by simpa [legal, rawqEmpty] using h)
  case shift => rw [perform_shift, execPerShift_of_empty h]
  case txe =>
    rcases Nat.lt_or_ge s.txIndex s.txLen with hlt | hpast
    · rw [perform_txe_of_inFrame hlt, execIrqTxeEmit_of_no_request h]
    · rw [perform_txe_of_past hpast, execIrqTxeDone_of_no_request h]

end Sys2Proof.Machine
end

section
/-! What a send in flight holds at its index, and why no legal event stops from a state with the invariant. -/

namespace Sys2Proof.Machine

/-! ## The frame in the send buffer -/

theorem sizeByte_data {p : Packet} (hp : p.wf = true) : sizeByte p.data = p.size := by
  rw [sizeByte, ((packet_wf_iff p).1 hp).2, BitVec.ofNat_toNat, BitVec.setWidth_eq]

/-- The frame is the image TX.SEND writes, with the checksum in its slot. -/
theorem frame_eq_sendImage_append {p : Packet} (hp : p.wf = true) :
    frame p.header p.data = sendImage p ++ [csum p.header p.size p.data] := by
  rw [frame, sizeByte_data hp, sendImage]

theorem length_frame {p : Packet} (hp : p.wf = true) :
    (frame p.header p.data).length = txLenOf p.size := by
  rw [frame_eq_sendImage_append hp, List.length_append, length_sendImage hp]
  rfl

/-- From index `tx_len - 2` on every byte under the checksum has been added into the slot. -/
theorem slotValue_of_complete {p : Packet} {i : Nat} (hp : p.wf = true)
    (hi : txLenOf p.size ≤ i + 2) : slotValue p i = csum p.header p.size p.data := by
  have hlen := ((packet_wf_iff p).1 hp).2
  simp only [txLenOf, Config.overhead] at hi
  have hall : (p.header :: p.size :: p.data).length ≤ min i (txLenOf p.size - 2) - 1 := by
    simp only [List.length_cons, txLenOf, Config.overhead]
    omega
  rw [slotValue, List.take_of_length_le hall, csum]

/-- The cell at the index holds the frame's byte: one of the image, or the slot, complete by then. -/
theorem SendInFlight.memGet_txIndex {p : Packet} {s : State} (h : SendInFlight p s)
    (hlt : s.txIndex < s.txLen) :
    memGet s.txBuf s.txIndex = (frame p.header p.data)[s.txIndex]? := by
  obtain ⟨hp, -, hlen, hcpos, -, -, himage, hslot, -, -⟩ := h
  have himlen := length_sendImage hp
  have hlen' : s.txLen = p.size.toNat + 5 := hlen
  have hcpos' : s.txCpos = p.size.toNat + 4 := by rw [hcpos, hlen']; rfl
  rw [frame_eq_sendImage_append hp]
  by_cases hin : s.txIndex < (sendImage p).length
  · rw [List.getElem?_append_left hin, List.getElem?_eq_getElem hin]
    simpa using (memHolds_iff _ _ _).1 himage _ _ (List.getElem?_eq_getElem hin)
  · have hat : s.txIndex = s.txCpos := by omega
    rw [hat] at hslot ⊢
    rw [hslot, slotValue_of_complete hp (by omega), List.getElem?_append_right (by omega)]
    simp [hcpos', himlen]

/-- The look-ahead finds the slot and the byte at the new index written. -/
theorem lookAhead_total {p : Packet} {s : State} (hp : p.wf = true) (hlen : s.txLen = txLenOf p.size)
    (hcpos : s.txCpos = txCposOf s.txLen) (hcap : s.txLen ≤ s.params.txBufCap)
    (himage : memHolds s.txBuf 0 (sendImage p) = true) {slot : Byte}
    (hslot : memGet s.txBuf s.txCpos = some slot) : ∃ t, lookAhead s = .next t := by
  have himlen := length_sendImage hp
  have hlen' : s.txLen = p.size.toNat + 5 := hlen
  have hcpos' : s.txCpos = p.size.toNat + 4 := by rw [hcpos, hlen']; rfl
  cases hacc : accumulates s.txIndex s.txLen with
  | false => exact ⟨s, (lookAhead_next_iff s s).2 (.inr ⟨hacc, rfl⟩)⟩
  | true =>
    obtain ⟨-, hbound⟩ := (accumulates_iff _ _).1 hacc
    have hin : s.txIndex < (sendImage p).length := by omega
    have hahead := (memHolds_iff _ _ _).1 himage _ _ (List.getElem?_eq_getElem hin)
    rw [Nat.zero_add] at hahead
    exact ⟨_, (lookAhead_next_iff s _).2
      (.inl ⟨hacc, slot, _, hslot, hahead, by omega, by omega, rfl⟩)⟩

/-- EMIT of a send in flight puts the frame's byte at the index into the data register. -/
theorem execIrqTxeEmit_of_sendInFlight {p : Packet} {s : State} (hfly : SendInFlight p s)
    (hcap : s.txLen ≤ s.params.txBufCap) (hreq : txeReq s = true) (hlt : s.txIndex < s.txLen) :
    ∃ b t, (frame p.header p.data)[s.txIndex]? = some b ∧ execIrqTxeEmit s = .next t ∧
      t = { s with txBuf := t.txBuf, tdr := b, tdrFull := true, txIndex := s.txIndex + 1 } := by
  have hcell := hfly.memGet_txIndex hlt
  obtain ⟨hp, -, hlen, hcpos, -, -, himage, hslot, -, -⟩ := hfly
  have hin : s.txIndex < (frame p.header p.data).length := by rwa [length_frame hp, ← hlen]
  rw [List.getElem?_eq_getElem hin] at hcell ⊢
  have hread : memRead .txbuf s.txIndex s = .next (frame p.header p.data)[s.txIndex] :=
    (memRead_next_iff _ _ _ _).2 ⟨Nat.lt_of_lt_of_le hlt hcap, hcell⟩
  obtain ⟨t, ht⟩ := lookAhead_total
    (s := { s with
      tdr := (frame p.header p.data)[s.txIndex], tdrFull := true, txIndex := s.txIndex + 1 })
    hp hlen hcpos hcap himage hslot
  refine ⟨_, t, rfl, ?_, lookAhead_frame ht⟩
  have hempty := ((txeReq_iff s).1 hreq).2
  have hwrite := (tdrWrite_next_iff (frame p.header p.data)[s.txIndex] s _).2 ⟨hempty, rfl⟩
  have hframe := (txInFrame_iff s).2 hlt
  simp only [execIrqTxeEmit, inHandler_eq, hreq, hframe, Bool.true_eq_false, if_false, hread,
    andThen_next, hwrite, ht]

theorem execIrqTxeDone_of_request {s : State} (hreq : txeReq s = true) (hpast : s.txLen ≤ s.txIndex) :
    execIrqTxeDone s = .next (semGive { s with txeIe := false }) := by
  have hout : txInFrame s = false := by simpa [txInFrame] using hpast
  rw [execIrqTxeDone, inHandler_eq, if_neg (by simp [hreq]), if_neg (by simp [hout])]

theorem txBufCap_of_ok {p : Params} (h : p.ok = true) : 35 ≤ p.txBufCap := by
  simp only [Params.ok, Bool.and_eq_true, decide_eq_true_eq] at h
  exact h.2

/-- The whole frame of a send in flight fits the buffer. -/
theorem SendInFlight.txLen_le {p : Packet} {s : State} (h : SendInFlight p s)
    (hpar : s.params.ok = true) : s.txLen ≤ s.params.txBufCap := by
  obtain ⟨-, hlen, -⟩ := h.txInv
  exact hlen.trans (txBufCap_of_ok hpar)

/-- With no send in flight the data register is empty and the frame fits the buffer. -/
theorem txSendOp_of_idle {p : Packet} {s : State} (hinv : Inv s) (hidle : s.txPhase = .idle)
    (hp : p.wf = true) : ∃ t, txSendOp p s = .next t := by
  obtain ⟨hpar, -, -, htx, -⟩ := hinv
  obtain ⟨-, -, hempty⟩ := htx.idle hidle
  have hsize : txLenOf p.size ≤ 35 := Nat.add_le_add_right ((packet_wf_iff p).1 hp).1 5
  exact ⟨_, (txSendOp_next_iff p s _).2
    ⟨hidle, hp, hsize.trans (txBufCap_of_ok hpar), hempty, rfl⟩⟩

/-- A request is only made inside a send, whose EMIT reads written cells. -/
theorem perform_txe_total {s : State} (hinv : Inv s) (hreq : txeReq s = true) :
    ∃ t, perform .txe s = .next t := by
  obtain ⟨hpar, -, -, htx, -⟩ := hinv
  obtain ⟨p, hfly⟩ := htx.waiting_of_txeIe ((txeReq_iff s).1 hreq).1
  rcases Nat.lt_or_ge s.txIndex s.txLen with hlt | hpast
  · obtain ⟨-, t, -, ht, -⟩ := execIrqTxeEmit_of_sendInFlight hfly (hfly.txLen_le hpar) hreq hlt
    exact ⟨t, (perform_txe_of_inFrame hlt).trans ht⟩
  · exact ⟨_, (perform_txe_of_past hpast).trans (execIrqTxeDone_of_request hreq hpast)⟩

/-! ## The receive engine -/

section
variable {s : State} {c : Byte} {q : List Byte}

theorem execRxFirstHit_of_byte (hq : s.rawq = Config.startByte :: q)
    (hst : s.rxState = .awaitFirstStart) :
    execRxFirstHit s = .next { s with rawq := q, rxState := .awaitSecondStart } :=
  rxByte_selected hq hst rfl

theorem execRxFirstMiss_of_byte (hq : s.rawq = c :: q) (hst : s.rxState = .awaitFirstStart)
    (hc : c ≠ Config.startByte) :
    execRxFirstMiss c s = .next { s with rawq := q, rxState := .awaitFirstStart } :=
  rxByte_selected hq hst (decide_eq_true hc)

theorem execRxSecondHit_of_byte (hq : s.rawq = Config.startByte :: q)
    (hst : s.rxState = .awaitSecondStart) :
    execRxSecondHit s = .next { s with rawq := q, rxState := .awaitHeader } :=
  rxByte_selected hq hst rfl

theorem execRxSecondMiss_of_byte (hq : s.rawq = c :: q) (hst : s.rxState = .awaitSecondStart)
    (hc : c ≠ Config.startByte) :
    execRxSecondMiss c s = .next (note (.ev1 c) (resync { s with rawq := q })) :=
  rxByte_selected hq hst (decide_eq_true hc)

theorem execRxHeader_of_byte (hq : s.rawq = c :: q) (hst : s.rxState = .awaitHeader) :
    execRxHeader c s =
      .next { s with rawq := q, rxHeader := c, rxCsum := seed c, rxState := .awaitSize } :=
  rxByte_selected hq hst rfl

theorem execRxSizeZero_of_byte (hq : s.rawq = 0 :: q) (hst : s.rxState = .awaitSize) :
    execRxSizeZero s =
      .next { acceptSize 0 { s with rawq := q } with rxState := .awaitChecksum } :=
  rxByte_selected hq hst rfl

theorem execRxSizeData_of_byte (hq : s.rawq = c :: q) (hst : s.rxState = .awaitSize)
    (hpos : 1 ≤ c.toNat) (hmax : c.toNat ≤ Config.maxData) :
    execRxSizeData c s =
      .next { acceptSize c { s with rawq := q } with rxState := .awaitData } :=
  rxByte_selected hq hst (by simp [hpos, hmax])

theorem execRxSizeReject_of_byte (hq : s.rawq = c :: q) (hst : s.rxState = .awaitSize)
    (hmax : Config.maxData < c.toNat) :
    execRxSizeReject c s = .next (note (.ev2 c) (resync { s with rawq := q })) :=
  rxByte_selected hq hst (decide_eq_true hmax)

end

theorem RxInv.awaitChecksum {s : State} (h : RxInv s) (hst : s.rxState = .awaitChecksum) :
    ∃ d : List Byte, d.length = s.rxSize.toNat ∧ memHolds s.rxData 0 d = true := by
  obtain ⟨-, -, -, hm⟩ := h
  rw [hst] at hm
  obtain ⟨-, d, hlen, hd, -⟩ := hm
  exact ⟨d, hlen, hd⟩

theorem execRxData_total {s : State} {c : Byte} {q : List Byte} (hrx : RxInv s)
    (hst : s.rxState = .awaitData) (hq : s.rawq = c :: q) : ∃ t, execRxData c s = .next t := by
  have ⟨hsize, _⟩ := hrx
  obtain ⟨hi, -⟩ := hrx.awaitData hst
  have hlt : s.rxIndex < Config.maxData := Nat.lt_of_lt_of_le hi hsize
  have hwrite := (memWrite_next_iff .rxdata s.rxIndex c { s with rawq := q } _).2 ⟨hlt, rfl⟩
  rw [execRxData, rxByte_selected hq hst rfl]
  simp only [hwrite, andThen_next]
  exact ⟨_, rfl⟩

theorem execRxCsum_total {s : State} {c : Byte} {q : List Byte} (hrx : RxInv s)
    (hst : s.rxState = .awaitChecksum) (hq : s.rawq = c :: q) : ∃ t, execRxCsum c s = .next t := by
  have ⟨hsize, _⟩ := hrx
  obtain ⟨d, hlen, hd⟩ := hrx.awaitChecksum hst
  have hp := (assemblePacket_next_iff { s with rawq := q } ⟨s.rxHeader, s.rxSize, d⟩).2
    ⟨rfl, rfl, hlen, hd, .inr hsize⟩
  rw [execRxCsum, rxByte_selected hq hst rfl]
  simp only [hp, andThen_next]
  split <;> exact ⟨_, rfl⟩

/-- In each receive state the operation the head byte selects runs: its constraint holds, RX.DATA stores
inside the buffer and RX.CSUM reads written cells. -/
theorem perform_step_total {s : State} (hinv : Inv s) (hne : s.rawq ≠ []) :
    ∃ t, perform .step s = .next t := by
  obtain ⟨c, q, hq⟩ := List.exists_cons_of_ne_nil hne
  obtain ⟨-, -, hrx, -, -⟩ := hinv
  rw [perform_step_of_byte hq]
  cases hst : s.rxState with
  | awaitFirstStart =>
    rw [decodeRxByte_awaitFirstStart]
    split
    next hc => exact ⟨_, execRxFirstHit_of_byte (hc ▸ hq) hst⟩
    next hc => exact ⟨_, execRxFirstMiss_of_byte hq hst hc⟩
  | awaitSecondStart =>
    rw [decodeRxByte_awaitSecondStart]
    split
    next hc => exact ⟨_, execRxSecondHit_of_byte (hc ▸ hq) hst⟩
    next hc => exact ⟨_, execRxSecondMiss_of_byte hq hst hc⟩
  | awaitHeader => exact ⟨_, execRxHeader_of_byte hq hst⟩
  | awaitSize =>
    rw [decodeRxByte_awaitSize]
    split
    next hc => exact ⟨_, execRxSizeZero_of_byte (hc ▸ hq) hst⟩
    next hc =>
      split
      next hmax => exact ⟨_, execRxSizeData_of_byte hq hst (by bv_omega) hmax⟩
      next hmax => exact ⟨_, execRxSizeReject_of_byte hq hst (Nat.not_le.1 hmax)⟩
  | awaitData => exact execRxData_total hrx hst hq
  | awaitChecksum => exact execRxCsum_total hrx hst hq

/-- Settles O31, event by event: the invariant gives what the operation needs beyond the "requires"
column. -/
theorem legalEventNeverStops : Obligations.LegalEventNeverStops := by
  intro s e hinv hlegal
  cases e with
  | rx b => exact ⟨_, perform_rx b s⟩
  | step => exact perform_step_total hinv (by simpa [legal, rawqEmpty] using hlegal)
  | timeout =>
    rw [perform_timeout]
    exact ⟨_, execRxTimeout_of_empty (by simpa [legal, rawqEmpty] using hlegal)⟩
  | txe => exact perform_txe_total hinv hlegal
  | send p =>
    obtain ⟨hidle, hp⟩ : s.txPhase = .idle ∧ p.wf = true := by simpa [legal] using hlegal
    rw [perform_send]
    exact txSendOp_of_idle hinv hidle hp
  | wait =>
    obtain ⟨hph, hsem⟩ : s.txPhase = .waiting ∧ s.sem = true := by
      simpa [legal, semAvail] using hlegal
    rw [perform_wait]
    exact ⟨_, execTxWait_of_available hph hsem⟩
  | enable flag => exact ⟨_, perform_enable flag s⟩
  | linkSend p =>
    obtain ⟨hidle, hp⟩ : s.txPhase = .idle ∧ p.wf = true := by simpa [legal] using hlegal
    rw [perform_linkSend]
    exact txSendOp_of_idle hinv hidle hp
  | recv =>
    obtain ⟨p, q, hq⟩ := List.exists_cons_of_ne_nil
      (show s.pktq ≠ [] by simpa [legal, pktqEmpty] using hlegal)
    rw [perform_recv]
    exact ⟨_, execLinkRecv_of_packet hq⟩
  | shift =>
    rw [perform_shift]
    exact ⟨_, execPerShift_of_full hlegal⟩
  | present w => cases hlegal

end Sys2Proof.Machine
end

section
/-! A send run alone (`xmit`, 30_encoding.md R105): each pair of `shift` and `txe` moves the byte in the data
register to the line and puts the frame's next byte there; the pair after the last byte completes the send,
and TX.WAIT returns. -/

namespace Sys2Proof.Machine

/-! ## The line -/

theorem lineSent_of_full {s : State} (h : s.tdrFull = true) :
    lineSent s = s.wireTx ++ [s.tdr] := by
  rw [lineSent, if_pos h]

theorem lineSent_of_empty {s : State} (h : s.tdrFull = false) : lineSent s = s.wireTx := by
  simp [lineSent, h]

/-- A shift moves a byte that was already written. -/
theorem execPerShift_lineSent {s t : State} (h : execPerShift s = .next t) :
    lineSent t = lineSent s := by
  obtain ⟨hfull, rfl⟩ := execPerShift_next h
  rw [lineSent_of_full hfull, lineSent_of_empty rfl]

theorem execPerShift_sendInFlight {p : Packet} {s t : State} (hfly : SendInFlight p s)
    (h : execPerShift s = .next t) : SendInFlight p t := by
  obtain ⟨-, rfl⟩ := execPerShift_next h
  obtain ⟨hp, hph, hlen, hcpos, hi, hile, himage, hslot, hsend, hdone⟩ := hfly
  refine ⟨hp, hph, hlen, hcpos, hi, hile, himage, hslot, hsend, fun hsem => ?_⟩
  obtain ⟨hoff, hend, -⟩ := hdone hsem
  exact ⟨hoff, hend, rfl⟩

theorem Sending.shift {base : List Byte} {p : Packet} {s t : State} (h : Sending base p s)
    (ht : execPerShift s = .next t) : Sending base p t := by
  obtain ⟨hfly, hline⟩ := h
  refine ⟨execPerShift_sendInFlight hfly ht, ?_⟩
  rw [execPerShift_lineSent ht, hline]
  obtain ⟨-, rfl⟩ := execPerShift_next ht
  rfl

/-- EMIT writes one more byte of the frame. -/
theorem Sending.emit {base : List Byte} {p : Packet} {s : State} (h : Sending base p s)
    (hcap : s.txLen ≤ s.params.txBufCap) (hreq : txeReq s = true) (hlt : s.txIndex < s.txLen) :
    ∃ t, execIrqTxeEmit s = .next t ∧ Sending base p t ∧
      t = { s with txBuf := t.txBuf, tdr := t.tdr, tdrFull := true, txIndex := s.txIndex + 1 } := by
  obtain ⟨hfly, hline⟩ := h
  obtain ⟨b, t, hb, ht, heq⟩ := execIrqTxeEmit_of_sendInFlight hfly hcap hreq hlt
  have hfull : t.tdrFull = true := by rw [heq]
  have htdr : t.tdr = b := by rw [heq]
  have hwire : t.wireTx = s.wireTx := by rw [heq]
  have hindex : t.txIndex = s.txIndex + 1 := by rw [heq]
  refine ⟨t, ht, ⟨execIrqTxeEmit_sendInFlight hfly ht, ?_⟩, htdr ▸ heq⟩
  rw [lineSent_of_empty ((txeReq_iff s).1 hreq).2] at hline
  rw [lineSent_of_full hfull, hwire, hline, htdr, hindex, List.take_add_one, hb, List.append_assoc]
  rfl

/-! ## The run -/

theorem performAll_cons_of_next {e : Event} {es : List Event} {s t : State}
    (h : perform e s = .next t) : performAll (e :: es) s = performAll es t := by
  rw [performAll, h, andThen_next]

theorem drain_succ (n : Nat) : drain (n + 1) = drain n ++ [.shift, .txe] := by
  induction n with
  | zero => rfl
  | succ n ih => exact congrArg (.shift :: .txe :: ·) ih

/-- From `s` the send of `p`, run alone, has come to `u`: the last byte written waits in the data register,
and but for the variables of the transmit side `u` is `s`. -/
def SendUnderWay (p : Packet) (s u : State) : Prop :=
  Sending s.wireTx p u ∧
    u = { s with
      wireTx := u.wireTx, tdr := u.tdr, tdrFull := true, txBuf := u.txBuf,
      txLen := txLenOf p.size, txCpos := txCposOf (txLenOf p.size), txIndex := u.txIndex,
      txeIe := true, txPhase := .waiting }

theorem sendUnderWay_of_txSendOp {p : Packet} {s t : State} (hsem : s.sem = false)
    (h : txSendOp p s = .next t) : SendUnderWay p s t ∧ t.txIndex = 1 := by
  have hfly := txSendOp_sendInFlight hsem h
  obtain ⟨-, -, -, -, rfl⟩ := (txSendOp_next_iff p s t).1 h
  exact ⟨⟨⟨hfly, lineSent_of_full rfl⟩, rfl⟩, rfl⟩

theorem SendUnderWay.registers {p : Packet} {s u : State} (h : SendUnderWay p s u) :
    u.params = s.params ∧ u.txPhase = .waiting ∧ u.txLen = txLenOf p.size ∧ u.txeIe = true ∧
      u.tdrFull = true := by
  obtain ⟨-, hu⟩ := h
  rw [hu]
  exact ⟨rfl, rfl, rfl, rfl, rfl⟩

/-- One pair inside the frame: the index advances by one. -/
theorem SendUnderWay.pair {p : Packet} {s u : State} (h : SendUnderWay p s u)
    (hpar : s.params.ok = true) (hlt : u.txIndex < u.txLen) :
    ∃ v, (∀ es, performAll (.shift :: .txe :: es) u = performAll es v) ∧ SendUnderWay p s v ∧
      v.txIndex = u.txIndex + 1 := by
  obtain ⟨hparams, -, -, hie, hfull⟩ := h.registers
  obtain ⟨hsend, hu⟩ := h
  have ⟨hfly, _⟩ := hsend
  have hshift := execPerShift_of_full hfull
  have hcap : (shifted u).txLen ≤ (shifted u).params.txBufCap :=
    hfly.txLen_le (hparams ▸ hpar)
  have hreq : txeReq (shifted u) = true := (txeReq_iff _).2 ⟨hie, rfl⟩
  have hlt' : (shifted u).txIndex < (shifted u).txLen := hlt
  obtain ⟨v, hemit, hv, heq⟩ := (hsend.shift hshift).emit hcap hreq hlt'
  refine ⟨v, fun es => ?_, ⟨hv, ?_⟩, ?_⟩
  · rw [performAll_cons_of_next ((perform_shift u).trans hshift),
      performAll_cons_of_next ((perform_txe_of_inFrame hlt').trans hemit)]
  · rw [heq, hu]
    rfl
  · rw [heq]
    rfl

/-- As many pairs as the frame has bytes left. -/
theorem SendUnderWay.drain {p : Packet} {s : State} (hpar : s.params.ok = true) (n : Nat) :
    ∀ u, SendUnderWay p s u → u.txIndex + n = txLenOf p.size →
      ∃ v, (∀ es, performAll (drain n ++ es) u = performAll es v) ∧ SendUnderWay p s v ∧
        v.txIndex = txLenOf p.size := by
  induction n with
  | zero => exact fun u h hn => ⟨u, fun _ => rfl, h, hn⟩
  | succ n ih =>
    intro u h hn
    obtain ⟨-, -, hlen, -, -⟩ := h.registers
    have hlt : u.txIndex < u.txLen := by omega
    obtain ⟨v, hpair, hv, hindex⟩ := h.pair hpar hlt
    obtain ⟨w, hrest, hw, hend⟩ := ih v hv (by omega)
    exact ⟨w, fun es => (hpair _).trans (hrest es), hw, hend⟩

/-- The last pair puts the last byte on the line and gives the semaphore, which TX.WAIT takes. -/
theorem SendUnderWay.complete {p : Packet} {s u : State} (h : SendUnderWay p s u)
    (hend : u.txIndex = txLenOf p.size) :
    performAll [.shift, .txe, .wait] u =
      .next (output .sendReturned
        { semGive { shifted u with txeIe := false } with sem := false, txPhase := .idle }) := by
  obtain ⟨-, hph, hlen, hie, hfull⟩ := h.registers
  have hpast : (shifted u).txLen ≤ (shifted u).txIndex := (hlen.trans hend.symm).le
  have hreq : txeReq (shifted u) = true := (txeReq_iff _).2 ⟨hie, rfl⟩
  have hshift := (perform_shift u).trans (execPerShift_of_full hfull)
  have hdone := (perform_txe_of_past hpast).trans (execIrqTxeDone_of_request hreq hpast)
  have hwait := (perform_wait (semGive { shifted u with txeIe := false })).trans
    (execTxWait_of_available hph rfl)
  rw [performAll_cons_of_next hshift, performAll_cons_of_next hdone, performAll_cons_of_next hwait]
  rfl

/-- With the index at its end the whole frame is written, its last byte in the data register. -/
theorem SendUnderWay.line {p : Packet} {s u : State} (h : SendUnderWay p s u)
    (hend : u.txIndex = txLenOf p.size) :
    (shifted u).wireTx = s.wireTx ++ frame p.header p.data ∧
      u.tdr = csum p.header p.size p.data := by
  obtain ⟨-, -, -, -, hfull⟩ := h.registers
  obtain ⟨⟨⟨hp, -⟩, hline⟩, -⟩ := h
  rw [lineSent_of_full hfull, hend, List.take_of_length_le (length_frame hp).le] at hline
  refine ⟨hline, ?_⟩
  rw [frame_eq_sendImage_append hp, ← List.append_assoc] at hline
  exact List.singleton_inj.1 (List.append_inj_right' hline rfl)

/-- Settles O39: TX.SEND puts the first byte under way, a pair each of the others, and the last pair and
TX.WAIT end the send. -/
theorem uninterruptedSendReturnsWithItsFrameOnTheLine :
    Obligations.UninterruptedSendReturnsWithItsFrameOnTheLine := by
  intro s p hinv hidle hp
  obtain ⟨t, hload⟩ := txSendOp_of_idle hinv hidle hp
  obtain ⟨hpar, -, -, htx, -⟩ := hinv
  obtain ⟨hsem, hie, hempty⟩ := htx.idle hidle
  obtain ⟨ht, hone⟩ := sendUnderWay_of_txSendOp hsem hload
  have hleft : t.txIndex + (p.size.toNat + 4) = txLenOf p.size := by
    rw [hone, txLenOf, Config.overhead]
    omega
  obtain ⟨u, hrun, hu, hend⟩ := SendUnderWay.drain hpar (p.size.toNat + 4) t ht hleft
  obtain ⟨hwire, htdr⟩ := hu.line hend
  have hall : performAll (.linkSend p :: drain (p.size.toNat + 5) ++ [.wait]) s =
      performAll [.shift, .txe, .wait] u := by
    rw [List.cons_append, performAll_cons_of_next ((perform_linkSend p s).trans hload), drain_succ,
      List.append_assoc]
    exact hrun _
  have ⟨_, heq⟩ := hu
  refine ⟨_, hall.trans (hu.complete hend), hwire, htdr, ?_, Config.wokenHint u.freeCount, ?_⟩
  · rw [heq]
    simp only [output, semGive, shifted, hend, hsem, hie, hempty, hidle]
    rfl
  · rw [heq]
    simp [shifted]

end Sys2Proof.Machine
end

section
/-! The queue primitives run on their own (40_fifo.md R121 to R124). -/

namespace Sys2Proof.Machine

theorem rawqFull_iff (s : State) : rawqFull s = true ↔ s.params.rawqCap ≤ s.rawq.length :=
  decide_eq_true_iff

theorem pktqFull_iff (s : State) : pktqFull s = true ↔ 2 ≤ s.pktq.length :=
  decide_eq_true_iff

theorem pushIsr_of_room {s : State} (v : Byte) (h : s.rawq.length < s.params.rawqCap) :
    pushIsr v s = { s with rawq := s.rawq ++ [v] } :=
  if_neg (mt (rawqFull_iff s).1 (Nat.not_le.2 h))

theorem pushIsr_of_full {s : State} (v : Byte) (h : s.params.rawqCap ≤ s.rawq.length) :
    pushIsr v s = note (.ev5 v) s :=
  if_pos ((rawqFull_iff s).2 h)

theorem pushNb_of_room {s : State} (p : Packet) (h : s.pktq.length < 2) :
    pushNb p s = { s with pktq := s.pktq ++ [p] } :=
  if_neg (mt (pktqFull_iff s).1 (Nat.not_le.2 h))

theorem pushNb_of_full {s : State} (p : Packet) (h : 2 ≤ s.pktq.length) :
    pushNb p s = note (.ev6 p) s :=
  if_pos ((pktqFull_iff s).2 h)

/-- Settles O22: each push with room appends, and without room drops. -/
theorem pushesAppendOrDrop : Obligations.PushesAppendOrDrop := by
  intro s v p
  constructor
  · split
    next hroom => exact congrArg Host.Outcome.next (pushIsr_of_room v hroom)
    next hfull => exact congrArg Host.Outcome.next (pushIsr_of_full v (Nat.not_lt.1 hfull))
  · split
    next hroom => exact congrArg Host.Outcome.next (pushNb_of_room p hroom)
    next hfull => exact congrArg Host.Outcome.next (pushNb_of_full p (Nat.not_lt.1 hfull))

section
variable {s : State} {v : Byte} {q : List Byte}

theorem execQPopT_of_byte (h : s.rawq = v :: q) :
    execQPopT false s = .next (output (.popped (some v)) { s with rawq := q }) := by
  simp [execQPopT, popT, h]

theorem execQPopT_timeout_of_byte (h : s.rawq = v :: q) :
    execQPopT true s = .refused .timeoutWithByteQueued := by
  simp [execQPopT, popT, h]

theorem execQPopT_of_empty (h : s.rawq = []) : execQPopT false s = .next s := by
  simp [execQPopT, popT, h]

theorem execQPopT_timeout_of_empty (h : s.rawq = []) :
    execQPopT true s = .next (output (.popped none) s) := by
  simp [execQPopT, popT, h]

end

theorem execQPopInf_of_packet {s : State} {p : Packet} {q : List Packet} (h : s.pktq = p :: q) :
    execQPopInf s = .next (output (.poppedPacket p) { s with pktq := q }) := by
  rw [execQPopInf, popInf, h]

theorem execQPopInf_of_empty {s : State} (h : s.pktq = []) : execQPopInf s = .next s := by
  rw [execQPopInf, popInf, h]

/-- Settles O23: an item queued or none, the timeout chosen or not. -/
theorem popsTakeTheOldestOrHold : Obligations.PopsTakeTheOldestOrHold := fun _ =>
  ⟨fun _ _ hq => ⟨execQPopT_of_byte hq, execQPopT_timeout_of_byte hq⟩,
    fun hempty => ⟨execQPopT_of_empty hempty, execQPopT_timeout_of_empty hempty⟩,
    fun _ _ hq => execQPopInf_of_packet hq, execQPopInf_of_empty⟩

end Sys2Proof.Machine
end

section
/-! The FIFO law (40_fifo.md R125): what an operation does to the two queues and to the packets returned so
far, said once (`QueueEffect`), and each part of the law read off it. -/

namespace Sys2Proof.Machine

/-- The packets queued and those returned so far are as before. -/
def SamePackets (s t : State) : Prop := t.pktq = s.pktq ∧ delivered t = delivered s

/-- Both queues and the packets returned so far are as before. -/
def SameQueues (s t : State) : Prop := t.rawq = s.rawq ∧ SamePackets s t

/-- The engine consumes this byte, the oldest queued, or is held with nothing queued. -/
def ConsumesByte (c : Byte) (s t : State) : Prop :=
  s.rawq = c :: t.rawq ∨ (s.rawq = [] ∧ t.rawq = [])

/-- The packet the receive registers and the receive cells hold (42_rx_framing.md R156). -/
def InReceiveRegisters (p : Packet) (s : State) : Prop :=
  p.header = s.rxHeader ∧ p.size = s.rxSize ∧ p.data.length = s.rxSize.toNat ∧
    ∀ (i : Nat) (b : Byte), p.data[i]? = some b → memRead .rxdata i s = .next b

/-- RX.CSUM on a matching byte with the packet queue not full: the one case that queues a packet. -/
def QueuesPacket (i : Instr) (s : State) : Prop :=
  i = .rxCsum s.rxCsum ∧ s.rawq ≠ [] ∧ s.pktq.length < 2

/-- The five things an operation can do to the queues and to the packets returned so far. -/
inductive QueueEffect (s t : State) : Instr → Prop where
  | push (b : Byte) (hraw : t.rawq = s.rawq ++ [b]) (hpkt : SamePackets s t) :
      QueueEffect s t (.irqRxnePush b)
  | consume {i : Instr} {c : Byte} (hi : rxByteOf i = some c) (hnone : ¬ QueuesPacket i s)
      (hraw : ConsumesByte c s t) (hpkt : SamePackets s t) : QueueEffect s t i
  | enqueue {i : Instr} {p : Packet} (hi : QueuesPacket i s) (hp : InReceiveRegisters p s)
      (hraw : ConsumesByte s.rxCsum s t) (hpktq : t.pktq = s.pktq ++ [p])
      (hdel : delivered t = delivered s) : QueueEffect s t i
  | receive (hraw : t.rawq = s.rawq) (hdel : delivered t = delivered s ++ s.pktq.take 1)
      (hpktq : t.pktq = s.pktq.drop 1) : QueueEffect s t .linkRecv
  | keep {i : Instr} (hi : rxByteOf i = none) (hpush : ∀ b, i ≠ .irqRxnePush b)
      (hrecv : i ≠ .linkRecv) (hsame : SameQueues s t) : QueueEffect s t i

/-! ## The packets returned so far -/

theorem SamePackets.append_eq {s t : State} (h : SamePackets s t) :
    delivered t ++ t.pktq = delivered s ++ s.pktq := by
  obtain ⟨hpktq, hdel⟩ := h
  rw [hpktq, hdel]

theorem delivered_output_received (p : Packet) (s : State) :
    delivered (output (.received p) s) = delivered s ++ [p] := by
  simp [delivered]

theorem delivered_of_outs_append {s t : State} {o : Output} (h : t.outs = s.outs ++ [o])
    (ho : ∀ p, o ≠ .received p) : delivered t = delivered s := by
  rw [delivered, h, List.filterMap_append]
  cases o with
  | received p => exact absurd rfl (ho p)
  | enableReturned | sendReturned | woken | popped | poppedPacket => exact List.append_nil _

/-! ## The effect of each operation -/

theorem execIrqRxnePush_appends {c : Byte} {s t : State} (h : execIrqRxnePush c s = .next t) :
    t = { s with rawq := s.rawq ++ [c] } := by
  simp only [execIrqRxnePush, inHandler_eq] at h
  split at h
  · cases h
  next hroom =>
    cases h
    exact pushIsr_of_room c (Nat.not_le.1 (mt (rawqFull_iff s).2 hroom))

theorem execIrqRxneDrop_notes {c : Byte} {s t : State} (h : execIrqRxneDrop c s = .next t) :
    t = note (.ev5 c) s := by
  simp only [execIrqRxneDrop, inHandler_eq] at h
  split at h
  next hfull =>
    cases h
    exact pushIsr_of_full c ((rawqFull_iff s).1 hfull)
  · cases h

/-- A byte operation whose rule after the pop leaves the queues and the outputs consumes its byte. -/
theorem rxByte_queueEffect {mnemonic : String} {want : RxState} {c : Byte} {ok : Bool}
    {k : State → Out State} {i : Instr} {s t : State} (h : rxByte mnemonic want c ok k s = .next t)
    (hi : rxByteOf i = some c) (hne : i ≠ .rxCsum c)
    (hk : ∀ r, k r = .next t → SameQueues r t) : QueueEffect s t i := by
  have hnone : ¬ QueuesPacket i s := by
    rintro ⟨rfl, -, -⟩
    cases hi
    exact hne rfl
  rcases rxByte_next h with ⟨q, hq, -, -, hnext⟩ | ⟨hempty, rfl⟩
  · obtain ⟨hraw, hpkt⟩ := hk _ hnext
    exact .consume hi hnone (.inl (hraw ▸ hq)) hpkt
  · exact .consume hi hnone (.inr ⟨hempty, hempty⟩) ⟨rfl, rfl⟩

theorem execRxData_queueEffect {c : Byte} {s t : State} (h : execRxData c s = .next t) :
    QueueEffect s t (.rxData c) := by
  refine rxByte_queueEffect h rfl (by simp) fun r hk => ?_
  simp only [andThen_eq_next_iff, memWrite_next_iff] at hk
  obtain ⟨_, ⟨-, rfl⟩, hk⟩ := hk
  cases hk
  exact ⟨rfl, rfl, rfl⟩

theorem assemblePacket_inReceiveRegisters {s : State} {p : Packet}
    (h : assemblePacket s = .next p) : InReceiveRegisters p s := by
  obtain ⟨hheader, hsize, hlen, hdata, hmax⟩ := (assemblePacket_next_iff s p).1 h
  refine ⟨hheader, hsize, hlen, fun i b hb => (memRead_next_iff .rxdata i s b).2 ⟨?_, ?_⟩⟩
  · have hi := (List.getElem?_eq_some_iff.1 hb).1
    rw [spaceSize]
    omega
  · simpa [cells] using (memHolds_iff _ _ _).1 hdata i b hb

/-- RX.CSUM queues the packet in the receive registers on a match with room, and drops it otherwise. -/
theorem execRxCsum_queueEffect {c : Byte} {s t : State} (h : execRxCsum c s = .next t) :
    QueueEffect s t (.rxCsum c) := by
  rcases execRxCsum_next h with ⟨q, hq, -, ⟨rfl, p, hp, rfl⟩ | ⟨hne, rfl⟩⟩ | ⟨hempty, rfl⟩
  · rcases Nat.lt_or_ge s.pktq.length 2 with hroom | hfull
    · rw [pushNb_of_room (s := { s with rawq := q }) p hroom]
      exact .enqueue ⟨rfl, hq ▸ List.cons_ne_nil _ q, hroom⟩ (assemblePacket_inReceiveRegisters hp)
        (.inl hq) rfl rfl
    · rw [pushNb_of_full (s := { s with rawq := q }) p hfull]
      exact .consume rfl (fun ⟨_, _, hroom⟩ => absurd hroom (Nat.not_lt.2 hfull)) (.inl hq)
        ⟨rfl, rfl⟩
  · exact .consume rfl (fun ⟨hi, _, _⟩ => hne (Instr.rxCsum.inj hi)) (.inl hq) ⟨rfl, rfl⟩
  · exact .consume rfl (fun ⟨_, hne, _⟩ => hne hempty) (.inr ⟨hempty, hempty⟩) ⟨rfl, rfl⟩

theorem execLinkRecv_queueEffect {s t : State} (h : execLinkRecv s = .next t) :
    QueueEffect s t .linkRecv := by
  rcases popInf_next h with ⟨p, q, hq, hk⟩ | ⟨hempty, rfl⟩
  · cases hk
    have hdel := delivered_output_received p { s with pktq := q }
    exact .receive rfl (hq ▸ hdel) (by simp [hq])
  · exact .receive rfl (by simp [hempty]) (by simp [hempty])

theorem execRxTimeout_sameQueues {s t : State} (h : execRxTimeout s = .next t) : SameQueues s t := by
  rcases execRxTimeout_next h with rfl | rfl <;> exact ⟨rfl, rfl, rfl⟩

theorem execIrqTxeEmit_sameQueues {s t : State} (h : execIrqTxeEmit s = .next t) : SameQueues s t := by
  obtain ⟨-, -, b, hla⟩ := execIrqTxeEmit_next h
  rw [lookAhead_frame hla]
  exact ⟨rfl, rfl, rfl⟩

theorem execIrqTxeDone_sameQueues {s t : State} (h : execIrqTxeDone s = .next t) : SameQueues s t := by
  obtain ⟨-, -, -, rfl⟩ := execIrqTxeDone_next h
  exact ⟨rfl, rfl, delivered_of_outs_append (semGive_outs _) (by simp)⟩

theorem txSendOp_sameQueues {p : Packet} {s t : State} (h : txSendOp p s = .next t) : SameQueues s t := by
  obtain ⟨-, -, -, -, rfl⟩ := (txSendOp_next_iff p s t).1 h
  exact ⟨rfl, rfl, rfl⟩

theorem execTxWait_sameQueues {s t : State} (h : execTxWait s = .next t) : SameQueues s t := by
  rcases (execTxWait_next h).2 with ⟨-, rfl⟩ | ⟨-, rfl⟩
  · exact ⟨rfl, rfl, delivered_of_outs_append (output_outs _ _) (by simp)⟩
  · exact ⟨rfl, rfl, rfl⟩

theorem execPerShift_sameQueues {s t : State} (h : execPerShift s = .next t) : SameQueues s t := by
  obtain ⟨-, rfl⟩ := execPerShift_next h
  exact ⟨rfl, rfl, rfl⟩

theorem exec_queueEffect {i : Instr} {s t : State} (hprim : i.isPrim = false)
    (h : exec i s = .next t) : QueueEffect s t i := by
  cases i with
  | rxFirstHit | rxFirstMiss | rxSecondHit | rxSecondMiss | rxHeader | rxSizeZero | rxSizeData
  | rxSizeReject =>
    simp only [exec] at h
    refine rxByte_queueEffect h rfl (by simp) fun r hk => ?_
    cases hk
    exact ⟨rfl, rfl, rfl⟩
  | rxData c => exact execRxData_queueEffect h
  | rxCsum c => exact execRxCsum_queueEffect h
  | irqRxnePush b =>
    cases execIrqRxnePush_appends h
    exact .push b rfl ⟨rfl, rfl⟩
  | linkRecv => exact execLinkRecv_queueEffect h
  | rxTimeout => exact .keep rfl (by simp) (by simp) (execRxTimeout_sameQueues h)
  | irqRxneDrop c =>
    cases execIrqRxneDrop_notes h
    exact .keep rfl (by simp) (by simp) ⟨rfl, rfl, rfl⟩
  | irqTxeEmit => exact .keep rfl (by simp) (by simp) (execIrqTxeEmit_sameQueues h)
  | irqTxeDone => exact .keep rfl (by simp) (by simp) (execIrqTxeDone_sameQueues h)
  | txSend p | linkSend p => exact .keep rfl (by simp) (by simp) (txSendOp_sameQueues h)
  | txWait => exact .keep rfl (by simp) (by simp) (execTxWait_sameQueues h)
  | linkEnable flag =>
    cases h
    exact .keep rfl (by simp) (by simp)
      ⟨rfl, rfl, delivered_of_outs_append (output_outs _ _) (by simp)⟩
  | perShift => exact .keep rfl (by simp) (by simp) (execPerShift_sameQueues h)
  | qPushIsr | qPushNb | qPopT | qPopInf | semGiveIsr | semTake => cases hprim
  | reservedState67 | reservedEv10to11 | reservedEv12to15 => cases h

/-! ## The law, part by part -/

section
variable {i : Instr} {s t : State}

theorem QueueEffect.rawq_of_push {b : Byte} (h : QueueEffect s t (.irqRxnePush b)) :
    t.rawq = s.rawq ++ [b] := by
  cases h with
  | push _ hraw => exact hraw
  | consume hi => cases hi
  | enqueue hi => cases hi.1
  | keep _ hpush => exact absurd rfl (hpush b)

theorem QueueEffect.rawq_of_byteOp {c : Byte} (h : QueueEffect s t i) (hc : rxByteOf i = some c) :
    ConsumesByte c s t := by
  cases h with
  | push | receive => cases hc
  | consume hi _ hraw =>
    cases hi.symm.trans hc
    exact hraw
  | enqueue hi _ hraw =>
    obtain ⟨rfl, -, -⟩ := hi
    cases hc
    exact hraw
  | keep hi => cases hi.symm.trans hc

theorem QueueEffect.rawq_of_other (h : QueueEffect s t i) (hc : rxByteOf i = none)
    (hpush : ∀ b, i ≠ .irqRxnePush b) : t.rawq = s.rawq := by
  cases h with
  | push b => exact absurd rfl (hpush b)
  | consume hi => cases hi.symm.trans hc
  | enqueue hi =>
    obtain ⟨rfl, -, -⟩ := hi
    cases hc
  | receive hraw => exact hraw
  | keep _ _ _ hsame => exact hsame.1

/-- The packets returned grow by LINK.RECV alone, and by the oldest queued. -/
theorem QueueEffect.delivered_eq (h : QueueEffect s t i) :
    delivered t = delivered s ++ (if i = .linkRecv then s.pktq.take 1 else []) := by
  cases h with
  | push _ _ hpkt => simpa using hpkt.2
  | consume hi _ _ hpkt =>
    have hrecv : i ≠ .linkRecv := by
      rintro rfl
      cases hi
    simpa [hrecv] using hpkt.2
  | enqueue hi _ _ _ hdel => simpa [hi.1] using hdel
  | receive _ hdel => simpa using hdel
  | keep _ _ hrecv hsame =>
    obtain ⟨-, -, hdel⟩ := hsame
    simpa [hrecv] using hdel

theorem QueueEffect.packets_of_queues (h : QueueEffect s t i) (hq : QueuesPacket i s) :
    ∃ p, delivered t ++ t.pktq = delivered s ++ s.pktq ++ [p] ∧ InReceiveRegisters p s := by
  cases h with
  | push | receive => cases hq.1
  | consume _ hnone => exact absurd hq hnone
  | enqueue _ hp _ hpktq hdel => exact ⟨_, by rw [hpktq, hdel, List.append_assoc], hp⟩
  | keep hi =>
    obtain ⟨rfl, -, -⟩ := hq
    cases hi

theorem QueueEffect.packets_of_not_queues (h : QueueEffect s t i) (hq : ¬ QueuesPacket i s) :
    delivered t ++ t.pktq = delivered s ++ s.pktq := by
  cases h with
  | push _ _ hpkt => exact hpkt.append_eq
  | consume _ _ _ hpkt => exact hpkt.append_eq
  | enqueue hi => exact absurd hi hq
  | receive _ hdel hpktq => rw [hdel, hpktq, List.append_assoc, List.take_append_drop]
  | keep _ _ _ hsame => exact hsame.2.append_eq

end

/-- Settles O34: a step performs the scheduled operation, whose effect is one of five, or only consumes
its event. -/
theorem queuesAreFirstInFirstOut : Obligations.QueuesAreFirstInFirstOut := by
  intro s t h
  rcases step_next h with ⟨hnone, rfl⟩ | ⟨i, hi, hprim, hexec⟩
  · simp [hnone, delivered]
  · have heff := exec_queueEffect hprim hexec
    rw [hi]
    refine ⟨?rawq, ?returned, ?packets⟩
    case rawq =>
      split
      next hpush =>
        cases hpush
        exact heff.rawq_of_push
      next hpush hsome =>
        cases hsome
        split
        next hc => exact heff.rawq_of_byteOp hc
        next hc => exact heff.rawq_of_other hc hpush
      next hnone => cases hnone
    case returned =>
      simp only [Option.some.injEq]
      exact heff.delivered_eq
    case packets =>
      simp only [Option.some.injEq]
      split
      next hqueues => exact heff.packets_of_queues hqueues
      next hqueues => exact heff.packets_of_not_queues hqueues

end Sys2Proof.Machine
end

section
/-! The semaphore (41_semaphore.md): the give and the take on their own (R141, R142), and the count of R143.
Of the operations a step performs, IRQ.TXE.DONE alone gives and TX.WAIT alone takes. -/

namespace Sys2Proof.Machine

/-! ## The primitives on their own -/

theorem semTake_of_available {s : State} (k : State → Out State) (h : s.sem = true) :
    semTake s k = k { s with sem := false } := if_pos h

theorem semTake_of_unavailable {s : State} (k : State → Out State) (h : s.sem = false) :
    semTake s k = .next s := if_neg (Bool.eq_false_iff.1 h)

/-- Settles O24: a give is one record update, and a take finds the semaphore available or not. -/
theorem giveAndTakeTheSemaphore : Obligations.GiveAndTakeTheSemaphore := fun _ =>
  ⟨⟨_, rfl⟩, semTake_of_available _, semTake_of_unavailable _⟩

/-! ## What is counted -/

/-- The count of 41_semaphore.md R143. -/
def Balanced (s : State) : Prop := gives s = takes s + (if s.sem then 1 else 0)

/-- The semaphore, its gives and its completed takes are as before. -/
def SameSemaphore (s t : State) : Prop := t.sem = s.sem ∧ gives t = gives s ∧ takes t = takes s

@[simp] theorem gives_semGive (s : State) : gives (semGive s) = gives s + 1 := by
  simp [gives, List.countP_append]

@[simp] theorem takes_semGive (s : State) : takes (semGive s) = takes s := by
  simp [takes, List.countP_append]

@[simp] theorem gives_output_sendReturned (s : State) :
    gives (output .sendReturned s) = gives s := by
  simp [gives, List.countP_append]

@[simp] theorem takes_output_sendReturned (s : State) :
    takes (output .sendReturned s) = takes s + 1 := by
  simp [takes, List.countP_append]

/-- Only the hint of a give and the return of `send` are counted. -/
theorem sameSemaphore_output {o : Output} (s : State) (hgive : ∀ hint, o ≠ .woken hint)
    (htake : o ≠ .sendReturned) : SameSemaphore s (output o s) := by
  cases o with
  | woken hint => exact absurd rfl (hgive hint)
  | sendReturned => exact absurd rfl htake
  | enableReturned | received | popped | poppedPacket =>
    exact ⟨rfl, by simp [gives, List.countP_append], by simp [takes, List.countP_append]⟩

theorem Balanced.of_same {s t : State} (h : Balanced s) (hsame : SameSemaphore s t) : Balanced t := by
  obtain ⟨hsem, hgives, htakes⟩ := hsame
  rwa [Balanced, hsem, hgives, htakes]

theorem Balanced.semGive {s : State} (h : Balanced s) (hsem : s.sem = false) :
    Balanced (semGive s) := by
  simpa [Balanced, hsem] using h

/-! ## The operations that neither give nor take -/

theorem pushNb_sameSemaphore (p : Packet) (s : State) : SameSemaphore s (pushNb p s) := by
  rcases pushNb_cases p s with ⟨-, h⟩ | ⟨-, h⟩ <;> rw [h] <;> exact ⟨rfl, rfl, rfl⟩

/-- The pop leaves the semaphore, so a byte operation does if the rule after its pop does. -/
theorem rxByte_sameSemaphore {mnemonic : String} {want : RxState} {c : Byte} {ok : Bool}
    {k : State → Out State} {s t : State} (h : rxByte mnemonic want c ok k s = .next t)
    (hk : ∀ r, k r = .next t → SameSemaphore r t) : SameSemaphore s t := by
  rcases rxByte_next h with ⟨q, -, -, -, hnext⟩ | ⟨-, rfl⟩
  · exact hk { s with rawq := q } hnext
  · exact ⟨rfl, rfl, rfl⟩

theorem execRxData_sameSemaphore {c : Byte} {s t : State} (h : execRxData c s = .next t) :
    SameSemaphore s t := by
  rcases execRxData_next h with ⟨q, -, -, -, rfl⟩ | ⟨-, rfl⟩ <;> exact ⟨rfl, rfl, rfl⟩

theorem execRxCsum_sameSemaphore {c : Byte} {s t : State} (h : execRxCsum c s = .next t) :
    SameSemaphore s t := by
  rcases execRxCsum_next h with ⟨q, -, -, ⟨-, p, -, rfl⟩ | ⟨-, rfl⟩⟩ | ⟨-, rfl⟩
  · exact pushNb_sameSemaphore p { s with rawq := q }
  · exact ⟨rfl, rfl, rfl⟩
  · exact ⟨rfl, rfl, rfl⟩

theorem execRxTimeout_sameSemaphore {s t : State} (h : execRxTimeout s = .next t) :
    SameSemaphore s t := by
  rcases execRxTimeout_next h with rfl | rfl <;> exact ⟨rfl, rfl, rfl⟩

theorem execIrqTxeEmit_sameSemaphore {s t : State} (h : execIrqTxeEmit s = .next t) :
    SameSemaphore s t := by
  obtain ⟨-, -, b, hla⟩ := execIrqTxeEmit_next h
  rw [lookAhead_frame hla]
  exact ⟨rfl, rfl, rfl⟩

theorem txSendOp_sameSemaphore {p : Packet} {s t : State} (h : txSendOp p s = .next t) :
    SameSemaphore s t := by
  obtain ⟨-, -, -, -, rfl⟩ := (txSendOp_next_iff p s t).1 h
  exact ⟨rfl, rfl, rfl⟩

theorem execLinkRecv_sameSemaphore {s t : State} (h : execLinkRecv s = .next t) :
    SameSemaphore s t := by
  rcases popInf_next h with ⟨p, q, -, hk⟩ | ⟨-, rfl⟩
  · cases hk
    exact sameSemaphore_output { s with pktq := q } (by simp) (by simp)
  · exact ⟨rfl, rfl, rfl⟩

theorem execPerShift_sameSemaphore {s t : State} (h : execPerShift s = .next t) :
    SameSemaphore s t := by
  obtain ⟨-, rfl⟩ := execPerShift_next h
  exact ⟨rfl, rfl, rfl⟩

/-- The semaphore is given and taken, and its counts advance, in two operations only. -/
theorem exec_sameSemaphore {i : Instr} {s t : State} (hprim : i.isPrim = false)
    (hdone : i ≠ .irqTxeDone) (hwait : i ≠ .txWait) (h : exec i s = .next t) :
    SameSemaphore s t := by
  cases i with
  | irqTxeDone => exact absurd rfl hdone
  | txWait => exact absurd rfl hwait
  | rxFirstHit | rxFirstMiss | rxSecondHit | rxSecondMiss | rxHeader | rxSizeZero | rxSizeData
  | rxSizeReject =>
    simp only [exec] at h
    refine rxByte_sameSemaphore h fun r hk => ?_
    cases hk
    exact ⟨rfl, rfl, rfl⟩
  | rxData c => exact execRxData_sameSemaphore h
  | rxCsum c => exact execRxCsum_sameSemaphore h
  | rxTimeout => exact execRxTimeout_sameSemaphore h
  | irqRxnePush c =>
    cases execIrqRxnePush_appends h
    exact ⟨rfl, rfl, rfl⟩
  | irqRxneDrop c =>
    cases execIrqRxneDrop_notes h
    exact ⟨rfl, rfl, rfl⟩
  | irqTxeEmit => exact execIrqTxeEmit_sameSemaphore h
  | txSend p | linkSend p => exact txSendOp_sameSemaphore h
  | linkEnable flag =>
    cases h
    exact sameSemaphore_output s (by simp) (by simp)
  | linkRecv => exact execLinkRecv_sameSemaphore h
  | perShift => exact execPerShift_sameSemaphore h
  | qPushIsr | qPushNb | qPopT | qPopInf | semGiveIsr | semTake => cases hprim
  | reservedState67 | reservedEv10to11 | reservedEv12to15 => cases h

/-! ## The give and the take -/

/-- While the interrupt is enabled the semaphore of the send in flight is yet to be given. -/
theorem TxInv.sem_eq_false_of_txeIe {s : State} (h : TxInv s) (hie : s.txeIe = true) :
    s.sem = false := by
  obtain ⟨p, -, -, -, -, -, -, -, -, -, hdone⟩ := h.waiting_of_txeIe hie
  refine Bool.eq_false_iff.2 fun hgiven => ?_
  obtain ⟨hoff, -, -⟩ := hdone hgiven
  rw [hoff] at hie
  cases hie

/-- DONE runs with the interrupt enabled, so its give is one more on an unavailable semaphore. -/
theorem execIrqTxeDone_keeps_balanced {s t : State} (htx : TxInv s) (hbal : Balanced s)
    (h : execIrqTxeDone s = .next t) : Balanced t := by
  obtain ⟨hie, -, -, rfl⟩ := execIrqTxeDone_next h
  have hsem := htx.sem_eq_false_of_txeIe hie
  exact Balanced.semGive (s := { s with txeIe := false }) hbal hsem

/-- A take that completes spends the one give that was ahead. -/
theorem execTxWait_keeps_balanced {s t : State} (hbal : Balanced s)
    (h : execTxWait s = .next t) : Balanced t := by
  rcases (execTxWait_next h).2 with ⟨hsem, rfl⟩ | ⟨-, rfl⟩
  · have hahead : gives s = takes s + 1 := by simpa [Balanced, hsem] using hbal
    rw [Balanced, gives_output_sendReturned, takes_output_sendReturned]
    exact hahead
  · exact hbal

theorem exec_keeps_balanced {i : Instr} {s t : State} (hprim : i.isPrim = false) (htx : TxInv s)
    (hbal : Balanced s) (h : exec i s = .next t) : Balanced t := by
  by_cases hdone : i = .irqTxeDone
  · subst hdone
    exact execIrqTxeDone_keeps_balanced htx hbal h
  · by_cases hwait : i = .txWait
    · subst hwait
      exact execTxWait_keeps_balanced hbal h
    · exact hbal.of_same (exec_sameSemaphore hprim hdone hwait h)

/-- Settles O35: nothing is counted at reset, and a step performs the scheduled operation, no primitive, or
only consumes its event. -/
theorem givesAndTakesStayBalanced : Obligations.GivesAndTakesStayBalanced := by
  refine ⟨rfl, fun s t hinv hbal h => ?_⟩
  rcases step_next h with ⟨-, rfl⟩ | ⟨i, -, hprim, hexec⟩
  · exact hbal
  · obtain ⟨-, -, -, htx, -⟩ := hinv.setScript s.script.tail
    exact exec_keeps_balanced hprim htx hbal hexec

end Sys2Proof.Machine
end

section
/-! The operations of the receive engine, one rule each (42_rx_framing.md R151 to R157). -/

namespace Sys2Proof.Machine

/-- Settles O5: the byte is the marker, or it is not. -/
theorem rxFirstHuntsForTheMarker : Obligations.RxFirstHuntsForTheMarker := by
  intro s c q hq hst
  have hsel := selected_step_of_byte hq
  rw [hst, decodeRxByte_awaitFirstStart] at hsel
  refine ⟨fun hc => ?hit, fun hc => ?miss⟩
  case hit =>
    subst hc
    exact ⟨hsel, execRxFirstHit_of_byte hq hst⟩
  case miss => exact ⟨hsel.trans (congrArg some (if_neg hc)), execRxFirstMiss_of_byte hq hst hc⟩

/-- Settles O6: the byte is the marker, or it is not. -/
theorem rxSecondNeedsTheMarker : Obligations.RxSecondNeedsTheMarker := by
  intro s c q hq hst
  have hsel := selected_step_of_byte hq
  rw [hst, decodeRxByte_awaitSecondStart] at hsel
  refine ⟨fun hc => ?hit, fun hc => ?miss⟩
  case hit =>
    subst hc
    exact ⟨hsel, execRxSecondHit_of_byte hq hst⟩
  case miss => exact ⟨hsel.trans (congrArg some (if_neg hc)), execRxSecondMiss_of_byte hq hst hc⟩

/-- Settles O7: one row for every byte. -/
theorem rxHeaderRecordsAndSeeds : Obligations.RxHeaderRecordsAndSeeds := by
  intro s c q hq hst
  have hsel := selected_step_of_byte hq
  rw [hst] at hsel
  exact ⟨hsel, execRxHeader_of_byte hq hst⟩

/-- Settles O8: the three ranges of the size byte are the three branches of the decoder. -/
theorem rxSizeAcceptsUpToThirty : Obligations.RxSizeAcceptsUpToThirty := by
  intro s c q hq hst
  have hsel := selected_step_of_byte hq
  rw [hst, decodeRxByte_awaitSize] at hsel
  refine ⟨fun hzero => ?zero, fun ⟨hpos, hmax⟩ => ?data, fun hbig => ?reject⟩
  case zero =>
    obtain rfl : c = 0 := BitVec.eq_of_toNat_eq hzero
    exact ⟨hsel, execRxSizeZero_of_byte hq hst⟩
  case data =>
    have hne : c ≠ 0 := by bv_omega
    rw [if_neg hne, if_pos (show c.toNat ≤ Config.maxData from hmax)] at hsel
    exact ⟨hsel, execRxSizeData_of_byte hq hst hpos hmax⟩
  case reject =>
    have hne : c ≠ 0 := by bv_omega
    rw [if_neg hne, if_neg (show ¬c.toNat ≤ Config.maxData from Nat.not_le.2 hbig)] at hsel
    exact ⟨hsel, execRxSizeReject_of_byte hq hst hbig⟩

section
variable {s : State} {c : Byte} {q : List Byte}

theorem execRxData_of_byte (hq : s.rawq = c :: q) (hst : s.rxState = .awaitData)
    (hlt : s.rxIndex < 30) :
    execRxData c s =
      .next { s with
        rawq := q, rxData := memPut s.rxData s.rxIndex c, rxCsum := fold s.rxCsum c,
        rxIndex := s.rxIndex + 1,
        rxState := if s.rxIndex + 1 = s.rxSize.toNat then .awaitChecksum else .awaitData } := by
  have hwrite := (memWrite_next_iff .rxdata s.rxIndex c { s with rawq := q } _).2 ⟨hlt, rfl⟩
  rw [execRxData, rxByte_selected hq hst rfl, hwrite]
  rfl

theorem execRxData_of_outside (hq : s.rawq = c :: q) (hst : s.rxState = .awaitData)
    (hout : 30 ≤ s.rxIndex) :
    execRxData c s = .refused (.outsideSpace .rxdata s.rxIndex) := by
  have hwrite := memWrite_of_outside (sp := .rxdata) (s := { s with rawq := q }) c hout
  rw [execRxData, rxByte_selected hq hst rfl, hwrite]
  rfl

theorem execRxCsum_of_match {p : Packet} (hq : s.rawq = c :: q) (hst : s.rxState = .awaitChecksum)
    (hc : c = s.rxCsum) (hp : assemblePacket s = .next p) :
    execRxCsum c s = .next (resync (pushNb p { s with rawq := q })) := by
  have hp' : assemblePacket { s with rawq := q } = .next p := by
    rwa [assemblePacket_next_iff] at hp ⊢
  rw [execRxCsum, rxByte_selected hq hst rfl, if_pos hc, hp', andThen_next]

theorem execRxCsum_of_mismatch (hq : s.rawq = c :: q) (hst : s.rxState = .awaitChecksum)
    (hc : c ≠ s.rxCsum) :
    execRxCsum c s = .next (resync (note (.ev3 c s.rxCsum) { s with rawq := q })) := by
  rw [execRxCsum, rxByte_selected hq hst rfl, if_neg hc]

end

/-- What each cell of the receive buffer reads once one of them is written. -/
theorem memRead_rxdata_of_memPut {s t : State} {i : Nat} {c : Byte} (hi : i < 30)
    (ht : t.rxData = memPut s.rxData i c) (a : Nat) :
    memRead .rxdata a t = if a = i then .next c else memRead .rxdata a s := by
  have hget : memGet (cells t .rxdata) a = if a = i then some c else memGet (cells s .rxdata) a := by
    rw [cells, ht, memGet_memPut, cells]
  split
  next ha => exact (memRead_next_iff _ _ _ _).2 ⟨ha ▸ hi, hget.trans (if_pos ha)⟩
  next ha => exact memRead_congr rfl (hget.trans (if_neg ha))

/-- Settles O9: the store is inside the buffer, or outside it. -/
theorem rxDataStoresAndFolds : Obligations.RxDataStoresAndFolds := by
  intro s c q hq hst
  have hsel := selected_step_of_byte hq
  rw [hst] at hsel
  refine ⟨hsel, fun hlt => ?stored, execRxData_of_outside hq hst⟩
  case stored =>
    exact ⟨_, execRxData_of_byte hq hst hlt, rfl, memRead_rxdata_of_memPut hlt rfl⟩

/-- The receive registers assemble the packet whose data the buffer reads. -/
theorem assemblePacket_of_read {s : State} {d : List Byte} (hlen : d.length = s.rxSize.toNat)
    (hmax : d.length ≤ 30)
    (hread : ∀ (i : Nat) (b : Byte), d[i]? = some b → memRead .rxdata i s = .next b) :
    assemblePacket s = .next { header := s.rxHeader, size := s.rxSize, data := d } := by
  have hheld : memHolds s.rxData 0 d = true := by
    refine (memHolds_iff _ _ _).2 fun i b hb => ?_
    rw [Nat.zero_add]
    exact ((memRead_next_iff _ _ _ _).1 (hread i b hb)).2
  exact (assemblePacket_next_iff _ _).2 ⟨rfl, rfl, hlen, hheld, .inr (hlen ▸ hmax)⟩

/-- Settles O10: the checksum test first, the test of the packet queue second (60_exceptions.md R239). -/
theorem rxCsumEmitsOnMatch : Obligations.RxCsumEmitsOnMatch := by
  intro s c q hq hst
  have hsel := selected_step_of_byte hq
  rw [hst] at hsel
  refine ⟨hsel, fun d hc hlen hmax hread => ?matched, fun hc => ?mismatched⟩
  case matched =>
    have hexec := execRxCsum_of_match hq hst hc (assemblePacket_of_read hlen hmax hread)
    refine Eq.trans hexec ?_
    split
    next hroom =>
      rw [pushNb_of_room (s := { s with rawq := q }) _ hroom]
      rfl
    next hfull =>
      rw [pushNb_of_full (s := { s with rawq := q }) _ (Nat.not_lt.1 hfull)]
      rfl
  case mismatched => exact execRxCsum_of_mismatch hq hst hc

/-- Resynchronising an engine that hunts already changes nothing. -/
theorem resync_of_hunting {s : State} (h : s.rxState = .awaitFirstStart) : resync s = s := by
  rw [resync, ← h]

/-- Settles O11: the engine was hunting already, or mid-frame. -/
theorem rxTimeoutResynchronises : Obligations.RxTimeoutResynchronises := by
  intro s hempty
  refine ⟨selected_timeout s, Eq.trans (execRxTimeout_of_empty hempty) ?_⟩
  split
  next hunting => rw [resync_of_hunting hunting]
  next => rfl

end Sys2Proof.Machine
end

section
/-! A frame run through the receive engine (42_rx_framing.md R158): the operations its bytes select, in
order, and the state they leave. -/

namespace Sys2Proof.Machine

/-! ## Runs of the engine -/

/-- The engine, stepping from `s`, performs these operations in order and comes to `t`. -/
inductive EngineTrace : List Instr → State → State → Prop where
  | nil (s : State) : EngineTrace [] s s
  | cons {i : Instr} {is : List Instr} {s u t : State} (hsel : selected s .step = some i)
      (hexec : exec i s = .next u) (hrest : EngineTrace is u t) : EngineTrace (i :: is) s t

theorem EngineTrace.single {i : Instr} {s t : State}
    (h : selected s .step = some i ∧ exec i s = .next t) : EngineTrace [i] s t := by
  obtain ⟨hsel, hexec⟩ := h
  exact .cons hsel hexec (.nil t)

theorem EngineTrace.append {is js : List Instr} {s u t : State} (h : EngineTrace is s u)
    (hrest : EngineTrace js u t) : EngineTrace (is ++ js) s t := by
  induction h with
  | nil => exact hrest
  | cons hsel hexec _ ih => exact .cons hsel hexec (ih hrest)

theorem EngineTrace.engineRun_eq {is : List Instr} {s t : State} (h : EngineTrace is s t) :
    engineRun is.length s = .next t := by
  induction h with
  | nil => rfl
  | cons hsel hexec _ ih =>
    exact (performAll_cons_of_next ((perform_of_selected hsel).trans hexec)).trans ih

theorem EngineTrace.engineOps_eq {is : List Instr} {s t : State} (h : EngineTrace is s t) :
    engineOps is.length s = is := by
  induction h with
  | nil => rfl
  | cons hsel hexec _ ih =>
    rw [List.length_cons, engineOps, hsel, (perform_of_selected hsel).trans hexec]
    exact congrArg _ ih

/-! ## The bytes of a frame -/

/-- The state of the engine inside a frame once `index` of its data bytes are stored. -/
def dataOrChecksum (index : Nat) (size : Byte) : RxState :=
  if index = size.toNat then .awaitChecksum else .awaitData

section
variable {s : State} {h n : Byte} {d q : List Byte}

theorem EngineTrace.header (hst : s.rxState = .awaitFirstStart)
    (hq : s.rawq = 0xAA#8 :: 0xAA#8 :: h :: q) :
    EngineTrace [.rxFirstHit, .rxSecondHit, .rxHeader h] s
      { s with rawq := q, rxHeader := h, rxCsum := seed h, rxState := .awaitSize } := by
  have first := (rxFirstHuntsForTheMarker s _ _ hq hst).1 rfl
  have second := (rxSecondNeedsTheMarker
    { s with rawq := 0xAA#8 :: h :: q, rxState := .awaitSecondStart } _ _ rfl rfl).1 rfl
  have third := rxHeaderRecordsAndSeeds
    { s with rawq := h :: q, rxState := .awaitHeader } _ _ rfl rfl
  exact .append (.single first) (.append (.single second) (.single third))

/-- A size byte in range: with no data to come the engine awaits the checksum at once. -/
theorem EngineTrace.size (hst : s.rxState = .awaitSize) (hmax : n.toNat ≤ 30)
    (hq : s.rawq = n :: q) :
    EngineTrace [if n.toNat = 0 then .rxSizeZero else .rxSizeData n] s
      { s with
        rawq := q, rxSize := n, rxCsum := fold s.rxCsum n, rxIndex := 0,
        rxState := dataOrChecksum 0 n } := by
  obtain ⟨zero, data, -⟩ := rxSizeAcceptsUpToThirty s n q hq hst
  by_cases hzero : n.toNat = 0
  · obtain rfl : n = 0 := BitVec.eq_of_toNat_eq hzero
    exact .single (zero rfl)
  · rw [if_neg hzero, dataOrChecksum, if_neg (Ne.symm hzero)]
    exact .single (data ⟨Nat.pos_of_ne_zero hzero, hmax⟩)

/-- The data bytes still to come, stored and folded one by one. -/
theorem EngineTrace.data (hst : s.rxState = dataOrChecksum s.rxIndex s.rxSize)
    (hlen : s.rxIndex + d.length = s.rxSize.toNat) (hmax : s.rxSize.toNat ≤ 30)
    (hq : s.rawq = d ++ q) :
    EngineTrace (d.map .rxData) s
      { s with
        rawq := q, rxState := .awaitChecksum, rxIndex := s.rxSize.toNat,
        rxCsum := d.foldl fold s.rxCsum, rxData := memPutList s.rxData s.rxIndex d } := by
  induction d generalizing s with
  | nil =>
    have hend : s.rxState = .awaitChecksum := hst.trans (if_pos hlen)
    obtain rfl : s.rawq = q := hq
    rw [← hend, ← hlen]
    exact .nil s
  | cons c d ih =>
    rw [List.length_cons] at hlen
    have hdata : s.rxState = .awaitData := hst.trans (if_neg (by omega))
    have hsel := (rxDataStoresAndFolds s c (d ++ q) hq hdata).1
    have hexec := execRxData_of_byte hq hdata (by omega)
    exact .cons hsel hexec (ih rfl (by simp only; omega) hmax rfl)

end

/-- The state with a frame's header, size and data received and its checksum awaited. -/
def frameHeld (h n : Byte) (d q : List Byte) (s : State) : State :=
  { s with
    rawq := q, rxState := .awaitChecksum, rxHeader := h, rxSize := n, rxIndex := n.toNat,
    rxCsum := csum h n d, rxData := memPutList s.rxData 0 d }

/-- The operations a frame's bytes select, its checksum byte left out. -/
def frameOps (h n : Byte) (d : List Byte) : List Instr :=
  [.rxFirstHit, .rxSecondHit, .rxHeader h] ++
    [if d.length = 0 then .rxSizeZero else .rxSizeData n] ++ d.map .rxData

theorem length_frameOps_append (h n : Byte) (d : List Byte) (i : Instr) :
    (frameOps h n d ++ [i]).length = d.length + 5 := by
  simp [frameOps]

section
variable {s : State} {h n c : Byte} {d q : List Byte}

theorem EngineTrace.frame (hst : s.rxState = .awaitFirstStart) (hlen : n.toNat = d.length)
    (hmax : d.length ≤ 30) (hq : s.rawq = [0xAA#8, 0xAA#8, h, n] ++ d ++ q) :
    EngineTrace (frameOps h n d) s (frameHeld h n d q s) := by
  have header := EngineTrace.header (q := n :: (d ++ q)) hst hq
  have size := EngineTrace.size (q := d ++ q) (n := n) (s :=
    { s with rawq := n :: (d ++ q), rxHeader := h, rxCsum := seed h, rxState := .awaitSize })
    rfl (hlen ▸ hmax) rfl
  have data := EngineTrace.data (d := d) (q := q) (s :=
    { s with
      rawq := d ++ q, rxHeader := h, rxSize := n, rxCsum := fold (seed h) n, rxIndex := 0,
      rxState := dataOrChecksum 0 n })
    rfl (by simp [hlen]) (hlen ▸ hmax) rfl
  rw [hlen] at size
  rw [frameHeld, ← foldl_fold_seed_eq_csum]
  exact (header.append size).append data

theorem assemblePacket_frameHeld (hlen : n.toNat = d.length) (hmax : d.length ≤ 30) :
    assemblePacket (frameHeld h n d q s) = .next { header := h, size := n, data := d } :=
  (assemblePacket_next_iff _ _).2
    ⟨rfl, rfl, hlen.symm, memHolds_memPutList _ _ _, .inr (hlen ▸ hmax)⟩

/-- The byte after a frame's data: on a match the packet is queued, there being room. -/
theorem EngineTrace.checksum_match (hlen : n.toNat = d.length) (hmax : d.length ≤ 30)
    (hroom : s.pktq.length < 2) :
    EngineTrace [.rxCsum (csum h n d)] (frameHeld h n d (csum h n d :: q) s)
      { frameHeld h n d q s with
        rxState := .awaitFirstStart, pktq := s.pktq ++ [{ header := h, size := n, data := d }] } := by
  refine .single ⟨(rxCsumEmitsOnMatch _ _ q rfl rfl).1, ?_⟩
  refine (execRxCsum_of_match rfl rfl rfl (assemblePacket_frameHeld hlen hmax)).trans ?_
  rw [pushNb_of_room (s := { frameHeld h n d (csum h n d :: q) s with rawq := q }) _ hroom]
  rfl

/-- The byte after a frame's data: on a mismatch the frame is dropped. -/
theorem EngineTrace.checksum_mismatch (hc : c ≠ csum h n d) :
    EngineTrace [.rxCsum c] (frameHeld h n d (c :: q) s)
      (resync (note (.ev3 c (csum h n d)) (frameHeld h n d q s))) :=
  .single ⟨(rxCsumEmitsOnMatch _ _ q rfl rfl).1, execRxCsum_of_mismatch rfl rfl hc⟩

/-- A frame with any checksum byte: the packet is queued exactly if the byte is the checksum of what was
received, and the engine hunts again. -/
theorem engineRun_frame (hst : s.rxState = .awaitFirstStart) (hlen : n.toNat = d.length)
    (hmax : d.length ≤ 30) (hroom : s.pktq.length < 2)
    (hq : s.rawq = [0xAA#8, 0xAA#8, h, n] ++ d ++ c :: q) :
    ∃ t, engineRun (d.length + 5) s = .next t ∧ t.rxState = .awaitFirstStart ∧ t.rawq = q ∧
      t.pktq =
        if c = csum h n d then s.pktq ++ [{ header := h, size := n, data := d }] else s.pktq := by
  have held := EngineTrace.frame hst hlen hmax hq
  rw [← length_frameOps_append h n d (.rxCsum c)]
  split
  next hc =>
    subst hc
    exact ⟨_, (held.append (.checksum_match hlen hmax hroom)).engineRun_eq, rfl, rfl, rfl⟩
  next hc => exact ⟨_, (held.append (.checksum_mismatch hc)).engineRun_eq, rfl, rfl, rfl⟩

end

theorem toNat_sizeByte {d : List Byte} (hmax : d.length ≤ 30) : (sizeByte d).toNat = d.length := by
  rw [sizeByte, BitVec.toNat_ofNat]
  omega

theorem frame_append (h : Byte) (d rest : List Byte) :
    frame h d ++ rest =
      [0xAA#8, 0xAA#8, h, sizeByte d] ++ d ++ csum h (sizeByte d) d :: rest :=
  List.append_assoc _ _ _

/-- Settles O40: the frame's operations up to the checksum, then RX.CSUM on a match. -/
theorem framedPacketIsDelivered : Obligations.FramedPacketIsDelivered := by
  intro s h d rest hmax hst hroom hq
  have hlen := toNat_sizeByte hmax
  have trace := (EngineTrace.frame hst hlen hmax (hq.trans (frame_append h d rest))).append
    (.checksum_match hlen hmax hroom)
  rw [← length_frameOps_append h (sizeByte d) d (.rxCsum (csum h (sizeByte d) d))]
  refine ⟨trace.engineOps_eq, _, trace.engineRun_eq, ?_⟩
  rw [frameHeld, hlen, ← hst]
  rfl

/-- Settles O43: a timeout in any state leaves the engine hunting, where the round trip starts. -/
theorem timeoutThenFrameIsDelivered : Obligations.TimeoutThenFrameIsDelivered := by
  intro s h d hmax hempty hroom
  obtain ⟨t, ht, hst, hpktq⟩ :
      ∃ t, execRxTimeout s = .next t ∧ t.rxState = .awaitFirstStart ∧ t.pktq = s.pktq := by
    refine ⟨_, execRxTimeout_of_empty hempty, rfl, ?_⟩
    split <;> rfl
  refine ⟨t, (perform_timeout s).trans ht, hst, hpktq, ?_⟩
  obtain ⟨-, u, hrun, hu⟩ := framedPacketIsDelivered { t with rawq := frame h d } h d [] hmax hst
    (hpktq ▸ hroom) (List.append_nil _).symm
  exact ⟨u, hrun, by rw [hu]; exact hst, by rw [hu, hpktq]⟩

end Sys2Proof.Machine
end

section
/-! Frames with one byte changed (42_rx_framing.md R160). Exchanging one byte for another keeps the sum modulo
255 only between 0x00 and 0xFF, the two bytes of one residue (90_conflicts.md C4). -/

namespace Sys2Proof.Machine

theorem mod255_eq_iff (a b : Nat) : mod255 a = mod255 b ↔ a % 255 = b % 255 := by
  rw [← BitVec.toNat_inj, toNat_mod255, toNat_mod255]

/-- Two sums that differ by the exchange of one byte. -/
theorem mod255_eq_iff_of_exchange {a b : Nat} {x y : Byte} (hsum : b + x.toNat = a + y.toNat)
    (hne : x ≠ y) :
    mod255 a = mod255 b ↔ (x = 0x00#8 ∧ y = 0xFF#8) ∨ (x = 0xFF#8 ∧ y = 0x00#8) := by
  have hx := x.isLt
  have hy := y.isLt
  have hne' : x.toNat ≠ y.toNat := mt BitVec.eq_of_toNat_eq hne
  rw [mod255_eq_iff]
  simp only [← BitVec.toNat_inj, BitVec.toNat_ofNat]
  omega

theorem byteSum_set {d : List Byte} {i : Nat} {x : Byte} (y : Byte) (hx : d[i]? = some x) :
    byteSum (d.set i y) + x.toNat = byteSum d + y.toNat := by
  induction d generalizing i with
  | nil => simp at hx
  | cons b d ih =>
    cases i with
    | zero =>
      obtain rfl : b = x := by simpa using hx
      simp only [List.set_cons_zero, byteSum_cons]
      omega
    | succ i =>
      have hrest := ih (i := i) (by simpa using hx)
      simp only [List.set_cons_succ, byteSum_cons]
      omega

theorem csum_eq_csum_set_iff {h n x y : Byte} {d : List Byte} {i : Nat} (hx : d[i]? = some x)
    (hne : x ≠ y) :
    csum h n d = csum h n (d.set i y) ↔
      (x = 0x00#8 ∧ y = 0xFF#8) ∨ (x = 0xFF#8 ∧ y = 0x00#8) := by
  refine mod255_eq_iff_of_exchange ?_ hne
  simp only [byteSum_cons, Nat.add_assoc, byteSum_set y hx]

theorem csum_eq_csum_header_iff {h g n : Byte} {d : List Byte} (hne : h ≠ g) :
    csum h n d = csum g n d ↔ (h = 0x00#8 ∧ g = 0xFF#8) ∨ (h = 0xFF#8 ∧ g = 0x00#8) := by
  refine mod255_eq_iff_of_exchange ?_ hne
  simp only [byteSum_cons]
  omega

/-- Settles O42: a changed checksum byte never matches; a changed data byte leaves the checksum as it was
only between 0x00 and 0xFF. -/
theorem corruptedChecksumOrDataByteIsDroppedButForZeroAndAllOnes :
    Obligations.CorruptedChecksumOrDataByteIsDroppedButForZeroAndAllOnes := by
  intro s h d rest hmax hst hroom
  have hlen : (BitVec.ofNat 8 d.length).toNat = d.length := toNat_sizeByte hmax
  refine ⟨fun c hc hq => ?checksum, fun i x y hx hne hq => ?data⟩
  case checksum =>
    obtain ⟨t, hrun, ht, hraw, hpktq⟩ := engineRun_frame hst hlen hmax hroom hq
    exact ⟨t, hrun, hpktq.trans (if_neg hc), ht, hraw⟩
  case data =>
    have hset : (d.set i y).length = d.length := List.length_set
    have hrun := engineRun_frame hst (hlen.trans hset.symm) (hset ▸ hmax) hroom hq
    simpa only [hset, csum_eq_csum_set_iff hx hne] using hrun

/-- Settles O44: a changed header leaves the checksum as it was only between 0x00 and 0xFF. -/
theorem corruptedHeaderIsDroppedButForZeroAndAllOnes :
    Obligations.CorruptedHeaderIsDroppedButForZeroAndAllOnes := by
  intro s h g d rest hmax hst hroom hne hq
  have hlen : (BitVec.ofNat 8 d.length).toNat = d.length := toNat_sizeByte hmax
  have hrun := engineRun_frame hst hlen hmax hroom hq
  simpa only [csum_eq_csum_header_iff hne] using hrun

end Sys2Proof.Machine
end

section
/-! Bytes without a start pair (42_rx_framing.md R159): after each byte the engine hunts in the state that
byte leads to. -/

namespace Sys2Proof.Machine

/-- Where an engine that hunts is after its last byte, if there was one. -/
def huntState (last : Option Byte) : RxState :=
  if last = some 0xAA#8 then .awaitSecondStart else .awaitFirstStart

/-- One byte more that makes no pair with the last one. -/
theorem perform_step_of_hunting {s : State} {last : Option Byte} {c : Byte} {q : List Byte}
    (hst : s.rxState = huntState last) (hq : s.rawq = c :: q)
    (hpair : ¬(last = some 0xAA#8 ∧ c = 0xAA#8)) :
    ∃ t, perform .step s = .next t ∧ t.pktq = s.pktq ∧ t.rawq = q ∧
      t.rxState = huntState (some c) := by
  by_cases hlast : last = some 0xAA#8
  · have hsecond : s.rxState = .awaitSecondStart := hst.trans (if_pos hlast)
    have hc : c ≠ 0xAA#8 := fun hc => hpair ⟨hlast, hc⟩
    obtain ⟨hsel, hexec⟩ := (rxSecondNeedsTheMarker s c q hq hsecond).2 hc
    exact ⟨_, (perform_of_selected hsel).trans hexec, rfl, rfl, (if_neg (by simpa using hc)).symm⟩
  · have hfirst : s.rxState = .awaitFirstStart := hst.trans (if_neg hlast)
    obtain ⟨hit, miss⟩ := rxFirstHuntsForTheMarker s c q hq hfirst
    by_cases hc : c = 0xAA#8
    · obtain ⟨hsel, hexec⟩ := hit hc
      exact ⟨_, (perform_of_selected hsel).trans hexec, rfl, rfl, (if_pos (congrArg some hc)).symm⟩
    · obtain ⟨hsel, hexec⟩ := miss hc
      exact ⟨_, (perform_of_selected hsel).trans hexec, rfl, rfl, (if_neg (by simpa using hc)).symm⟩

theorem performAll_append (es fs : List Event) (s : State) :
    performAll (es ++ fs) s = andThen (performAll es s) (performAll fs) := by
  induction es generalizing s with
  | nil => rfl
  | cons e es ih =>
    rw [List.cons_append, performAll, performAll]
    cases perform e s with
    | next t => exact ih t
    | fault | refused => rfl

theorem engineRun_succ_of_next {n : Nat} {s t u : State} (hrun : engineRun n s = .next t)
    (hstep : perform .step t = .next u) : engineRun (n + 1) s = .next u := by
  rw [engineRun] at hrun ⊢
  rw [List.replicate_succ', performAll_append, hrun, andThen_next, performAll_cons_of_next hstep]
  rfl

/-- Settles O41, by induction on the bytes from the last one back: the engine hunts after all but the last,
and the last makes no pair with the one before it. -/
theorem noStartPairNoPacket : Obligations.NoStartPairNoPacket := by
  intro s bs rest hst
  induction bs using List.reverseRecOn generalizing rest with
  | nil => exact fun hq _ => ⟨s, rfl, rfl, hq, hst⟩
  | append_singleton bs c ih =>
    intro hq hpairs
    have hbefore : ∀ i, ¬(bs[i]? = some 0xAA#8 ∧ bs[i + 1]? = some 0xAA#8) := by
      rintro i ⟨ha, hb⟩
      have hi := (List.getElem?_eq_some_iff.1 hb).1
      refine hpairs i ⟨?_, ?_⟩
      · rwa [List.getElem?_append_left (by omega)]
      · rwa [List.getElem?_append_left hi]
    have hlast : ¬(bs.getLast? = some 0xAA#8 ∧ c = 0xAA#8) := by
      rintro ⟨ha, hc⟩
      have hpos : 0 < bs.length := by
        rw [List.length_pos_iff]
        rintro rfl
        cases ha
      rw [List.getLast?_eq_getElem?] at ha
      refine hpairs (bs.length - 1) ⟨?_, ?_⟩
      · rwa [List.getElem?_append_left (by omega)]
      · rw [Nat.sub_add_cancel hpos, List.getElem?_concat_length, hc]
    rw [List.append_assoc] at hq
    obtain ⟨t, hrun, hpktq, hraw, ht⟩ := ih (c :: rest) hq hbefore
    obtain ⟨u, hstep, hpktq', hraw', hu⟩ := perform_step_of_hunting ht hraw hlast
    refine ⟨u, ?_, hpktq'.trans hpktq, hraw', ?_⟩
    · rw [List.length_append]
      exact engineRun_succ_of_next hrun hstep
    · rw [List.getLast?_concat]
      exact hu

end Sys2Proof.Machine
end

section
/-! The transmit engine (43_tx_engine.md): what TX.SEND answers and refuses (R180, R181), TX.WAIT (R182), and
a send in flight under every operation a step performs (R183): IRQ.TXE.EMIT writes one more byte of the frame,
TX.WAIT ends the send, and no other operation changes what has been written of it. -/

namespace Sys2Proof.Machine

/-! ## TX.SEND outside its precondition -/

theorem txSendOp_of_waiting {s : State} (p : Packet) (h : s.txPhase = .waiting) :
    txSendOp p s = .refused .sendInFlight := by
  simp [txSendOp, h]

theorem txSendOp_of_illFormed {s : State} {p : Packet} (h : s.txPhase = .idle) (hp : p.wf = false) :
    txSendOp p s = .refused .packetIllFormed := by
  simp [txSendOp, h, hp]

/-! ## The cells and the registers TX.SEND leaves -/

/-- The cells of the frame hold the image and a zero slot; those past it are as before. -/
theorem txSendOp_memGet {p : Packet} {s t : State} (h : txSendOp p s = .next t) (a : Nat) :
    memGet t.txBuf a =
      if a < p.size.toNat + 5 then (sendImage p ++ [0])[a]? else memGet s.txBuf a := by
  obtain ⟨-, hp, -, -, rfl⟩ := (txSendOp_next_iff p s t).1 h
  have hlen := length_sendImage hp
  have hcpos : txCposOf (txLenOf p.size) = p.size.toNat + 4 := rfl
  simp only [hcpos]
  rcases Nat.lt_trichotomy a (p.size.toNat + 4) with himage | rfl | hpast
  · rw [memGet_memPut_ne _ _ (by omega), memGet_memPutList, if_pos (by omega), if_pos (by omega),
      List.getElem?_append_left (by omega), Nat.sub_zero]
  · rw [memGet_memPut_same, if_pos (by omega), ← hlen, List.getElem?_concat_length]
  · rw [memGet_memPut_ne _ _ (by omega), memGet_memPutList, if_neg (by omega), if_neg (by omega)]

theorem txSendOp_memRead_frame {p : Packet} {s t : State} (h : txSendOp p s = .next t) {a : Nat}
    {b : Byte} (hb : (sendImage p ++ [0])[a]? = some b) : memRead .txbuf a t = .next b := by
  have hcell := txSendOp_memGet h a
  obtain ⟨-, hp, hcap, -, ht⟩ := (txSendOp_next_iff p s t).1 h
  have hin : a < p.size.toNat + 5 := by
    have hlt := (List.getElem?_eq_some_iff.1 hb).1
    rwa [List.length_append, length_sendImage hp] at hlt
  have hparams : t.params = s.params := by rw [ht]
  rw [if_pos hin] at hcell
  refine (memRead_next_iff _ _ _ _).2 ⟨?_, hcell.trans hb⟩
  rw [spaceSize, hparams]
  exact Nat.lt_of_lt_of_le hin hcap

theorem txSendOp_memRead_past {p : Packet} {s t : State} (h : txSendOp p s = .next t) {a : Nat}
    (ha : p.size.toNat + 5 ≤ a) : memRead .txbuf a t = memRead .txbuf a s := by
  have hcell := txSendOp_memGet h a
  rw [if_neg (Nat.not_lt.2 ha)] at hcell
  obtain ⟨-, -, -, -, ht⟩ := (txSendOp_next_iff p s t).1 h
  have hsize : spaceSize t .txbuf = spaceSize s .txbuf := by rw [ht]; rfl
  exact memRead_congr hsize hcell

theorem txSendOp_loadsFrame {p : Packet} {s t : State} (h : txSendOp p s = .next t) :
    LoadsFrame p s t := by
  have hread {a : Nat} {b : Byte} := txSendOp_memRead_frame (a := a) (b := b) h
  obtain ⟨-, hp, -, -, ht⟩ := (txSendOp_next_iff p s t).1 h
  refine ⟨by rw [ht]; rfl, hread rfl, hread rfl, hread rfl, hread rfl, fun i b hb => hread ?_,
    hread ?_, fun a => txSendOp_memRead_past h⟩
  · have hi := (List.getElem?_eq_some_iff.1 hb).1
    rw [sendImage, List.append_assoc, List.getElem?_append_right (Nat.le_add_right 4 i)]
    simpa [List.getElem?_append_left hi] using hb
  · rw [← length_sendImage hp, List.getElem?_concat_length]
    rfl

/-! ## A send in flight under each operation -/

/-- From `s` to `t` TX.WAIT has ended the send of `p`: its whole frame is on the line after `base`, and
`send` has returned success. -/
def SendCompletes (base : List Byte) (p : Packet) (s t : State) : Prop :=
  t.txPhase = .idle ∧ t.tdrFull = false ∧ t.wireTx = base ++ frame p.header p.data ∧
    t.outs = s.outs ++ [.sendReturned]

section
variable {base : List Byte} {p : Packet} {s t : State}

/-- The agents that own no variable of the transmit side leave a send as it is. -/
theorem Sending.of_writesOnlyOwned {a : Agent} (h : Sending base p s)
    (ha : a = .rxeng ∨ a = .receiver ∨ a = .host) (hw : writesOnlyOwned a s t) :
    Sending base p t := by
  rcases ha with rfl | rfl | rfl
  all_goals
    rw [hw]
    exact h

/-- EMIT answers only to a request inside the frame, and then it writes the next byte. -/
theorem Sending.of_execIrqTxeEmit (h : Sending base p s) (hpar : s.params.ok = true)
    (ht : execIrqTxeEmit s = .next t) : Sending base p t := by
  have ⟨hfly, _⟩ := h
  obtain ⟨-, hlt, -⟩ := execIrqTxeEmit_next ht
  cases hreq : txeReq s with
  | false =>
    rw [execIrqTxeEmit_of_no_request hreq] at ht
    cases ht
  | true =>
    obtain ⟨u, hu, hsend, -⟩ := h.emit (hfly.txLen_le hpar) hreq hlt
    cases hu.symm.trans ht
    exact hsend

/-- DONE finds every byte of the frame written and the data register empty. -/
theorem Sending.of_execIrqTxeDone (h : Sending base p s) (ht : execIrqTxeDone s = .next t) :
    Sending base p t := by
  obtain ⟨-, hempty, hpast, rfl⟩ := execIrqTxeDone_next ht
  obtain ⟨⟨hp, hph, hlen, hcpos, hi, hile, himage, hslot, -, -⟩, hline⟩ := h
  exact ⟨⟨hp, hph, hlen, hcpos, hi, hile, himage, hslot, fun hs => absurd hs (by simp [semGive]),
    fun _ => ⟨rfl, Nat.le_antisymm hile hpast, hempty⟩⟩, hline⟩

/-- An available semaphore means that the index is at the end of the frame and the data register empty, so
the whole frame is on the line when TX.WAIT takes it. -/
theorem Sending.of_execTxWait (h : Sending base p s) (ht : execTxWait s = .next t) :
    Sending base p t ∨ SendCompletes base p s t := by
  obtain ⟨-, ⟨hsem, rfl⟩ | ⟨-, rfl⟩⟩ := execTxWait_next ht
  · obtain ⟨⟨hp, -, hlen, -, -, -, -, -, -, hdone⟩, hline⟩ := h
    obtain ⟨-, hend, hempty⟩ := hdone hsem
    rw [lineSent_of_empty hempty, hend, hlen, List.take_of_length_le (length_frame hp).le] at hline
    exact .inr ⟨rfl, hempty, hline, rfl⟩
  · exact .inl h

theorem Sending.of_exec {i : Instr} (h : Sending base p s) (hpar : s.params.ok = true)
    (hprim : i.isPrim = false) (ht : exec i s = .next t) :
    Sending base p t ∨ SendCompletes base p s t := by
  cases i with
  | rxFirstHit | rxFirstMiss | rxSecondHit | rxSecondMiss | rxHeader | rxSizeZero | rxSizeData
  | rxSizeReject | rxData | rxCsum | rxTimeout | linkRecv | linkEnable =>
    have howned := operationsWriteOnlyWhatTheirAgentOwns _ _ s t rfl ht
    exact .inl (h.of_writesOnlyOwned (by simp) howned)
  | irqRxnePush c =>
    cases execIrqRxnePush_appends ht
    exact .inl h
  | irqRxneDrop c =>
    cases execIrqRxneDrop_notes ht
    exact .inl h
  | irqTxeEmit => exact .inl (h.of_execIrqTxeEmit hpar ht)
  | irqTxeDone => exact .inl (h.of_execIrqTxeDone ht)
  | perShift => exact .inl (h.shift ht)
  | txWait => exact h.of_execTxWait ht
  | txSend r | linkSend r =>
    obtain ⟨⟨-, hwaiting, -⟩, -⟩ := h
    cases (txSendOp_of_waiting r hwaiting).symm.trans ht
  | qPushIsr | qPushNb | qPopT | qPopInf | semGiveIsr | semTake => cases hprim
  | reservedState67 | reservedEv10to11 | reservedEv12to15 => cases ht

end

/-- Settles O37: a step performs the scheduled operation, no primitive, or only consumes its event. -/
theorem sendInFlightPutsExactlyItsFrameOnTheLine :
    Obligations.SendInFlightPutsExactlyItsFrameOnTheLine := by
  rintro base p s t ⟨hpar, -⟩ hsend h
  have hconsumed : Sending base p { s with script := s.script.tail } := hsend
  rcases step_next h with ⟨-, rfl⟩ | ⟨i, -, hprim, hexec⟩
  · exact .inl hconsumed
  · exact hconsumed.of_exec hpar hprim hexec

/-! ## The start of a send -/

/-- Settles O16: the precondition is all that TX.SEND, the first half of LINK.SEND, tests. -/
theorem sendLoadsTheFrame : Obligations.SendLoadsTheFrame := by
  intro s p hidle hsize hdata hempty hcap
  have hlen : txLenOf p.size ≤ s.params.txBufCap := (Nat.add_le_add_right hsize 5).trans hcap
  have hload := (txSendOp_next_iff p s _).2
    ⟨hidle, (packet_wf_iff p).2 ⟨hsize, hdata⟩, hlen, hempty, rfl⟩
  exact ⟨selected_send p s, selected_linkSend p s, _, hload, hload, txSendOp_loadsFrame hload⟩

/-- Settles O36: with no send in flight the semaphore is unavailable and the data register empty. -/
theorem sendStartsAfterTheLineIsClear : Obligations.SendStartsAfterTheLineIsClear := by
  rintro s t p ⟨-, -, -, htx, -⟩ h
  obtain ⟨hidle, -⟩ := (txSendOp_next_iff p s t).1 h
  obtain ⟨hsem, -, hempty⟩ := htx.idle hidle
  obtain ⟨⟨hsend, -⟩, -⟩ := sendUnderWay_of_txSendOp hsem h
  exact ⟨lineSent_of_empty hempty, hsend⟩

/-- Settles O17: TX.SEND tests for a send in flight first and for the packet's invariant second, and
LINK.SEND starts with it. -/
theorem sendOutsideItsPreconditionIsRefused : Obligations.SendOutsideItsPreconditionIsRefused := by
  intro s p
  refine ⟨fun hwaiting => ?_, fun hidle hbad => ?_⟩
  · exact ⟨txSendOp_of_waiting p hwaiting, txSendOp_of_waiting p hwaiting⟩
  · have hwf : p.wf = false := by
      rw [← Bool.not_eq_true, packet_wf_iff]
      omega
    exact ⟨txSendOp_of_illFormed hidle hwf, txSendOp_of_illFormed hidle hwf⟩

/-! ## The end of a send -/

/-- Settles O18: TX.WAIT tests for a send in flight, then for the semaphore. -/
theorem waitTakesTheSemaphoreOrHolds : Obligations.WaitTakesTheSemaphoreOrHolds := fun s =>
  ⟨selected_wait s, execTxWait_of_available, execTxWait_of_held, execTxWait_of_idle⟩

end Sys2Proof.Machine
end

section
/-! The interrupt handlers (44_interrupt_handlers.md): what each of their operations answers (R201 to R203),
the checksum the look-ahead completes (R205), and the order of the two parts of one invocation (R200). -/

namespace Sys2Proof.Machine

/-! ## The receive part -/

/-- Settles O12: the guard of the selection is whether the push has room. -/
theorem receivedByteIsQueuedOrDropped : Obligations.ReceivedByteIsQueuedOrDropped := by
  intro s b
  have hpush : perform (.rx b) s = .next (pushIsr b s) := perform_rx b s
  refine ⟨fun hroom => ?room, fun hfull => ?full⟩
  case room =>
    have hsel : selected s (.rx b) = some (.irqRxnePush b) := by
      rw [selected_rx, if_neg (mt (rawqFull_iff s).1 (Nat.not_le.2 hroom))]
    rw [perform_of_selected hsel, pushIsr_of_room b hroom] at hpush
    exact ⟨hsel, hpush⟩
  case full =>
    have hsel : selected s (.rx b) = some (.irqRxneDrop b) := by
      rw [selected_rx, if_pos ((rawqFull_iff s).2 hfull)]
    rw [perform_of_selected hsel, pushIsr_of_full b hfull] at hpush
    exact ⟨hsel, hpush⟩

/-! ## The transmit part -/

/-- Settles O14: the request and the index past the frame are all that DONE tests; the hint is the next free
value. -/
theorem doneDisablesAndGives : Obligations.DoneDisablesAndGives := by
  intro s hie hempty hpast
  refine ⟨?_, Config.wokenHint s.freeCount, ?_⟩
  · rw [selected_txe, if_neg (mt (txInFrame_iff s).1 (Nat.not_lt.2 hpast))]
  · exact execIrqTxeDone_of_request ((txeReq_iff s).2 ⟨hie, hempty⟩) hpast

/-- The state in which EMIT looks ahead: the byte in the data register, the index advanced. -/
def emitted (b : Byte) (s : State) : State :=
  { s with tdr := b, tdrFull := true, txIndex := s.txIndex + 1 }

/-- EMIT on a request inside the frame: the byte at the index is read and written, then the look-ahead runs. -/
theorem execIrqTxeEmit_of_request {s : State} (hreq : txeReq s = true) (hlt : s.txIndex < s.txLen) :
    execIrqTxeEmit s = andThen (memRead .txbuf s.txIndex s) fun b => lookAhead (emitted b s) := by
  have hempty := ((txeReq_iff s).1 hreq).2
  have hwrite (b : Byte) : tdrWrite b s = .next { s with tdr := b, tdrFull := true } :=
    (tdrWrite_next_iff b s _).2 ⟨hempty, rfl⟩
  simp only [execIrqTxeEmit, inHandler_eq, hreq, (txInFrame_iff s).2 hlt, Bool.true_eq_false, if_false,
    hwrite, andThen_next]
  rfl

/-- Within its bounds the look-ahead is one write of the checksum slot. -/
theorem lookAhead_of_accumulates {s : State} {slot b : Byte}
    (hacc : accumulates s.txIndex s.txLen = true) (hslot : memRead .txbuf s.txCpos s = .next slot)
    (hb : memRead .txbuf s.txIndex s = .next b) :
    lookAhead s = memWrite .txbuf s.txCpos (fold slot b) s := by
  rw [lookAhead, if_pos hacc, hslot, andThen_next, hb, andThen_next]

theorem lookAhead_of_not_accumulates {s : State} (hacc : accumulates s.txIndex s.txLen ≠ true) :
    lookAhead s = .next s := by
  rw [lookAhead, if_neg hacc]

/-- Settles O13: inside the bounds of the look-ahead the memory clauses are those of its one write. -/
theorem emitSendsTheByteAndLooksAhead : Obligations.EmitSendsTheByteAndLooksAhead := by
  intro s b slot ahead hie hempty hlt hread
  have hemit := execIrqTxeEmit_of_request ((txeReq_iff s).2 ⟨hie, hempty⟩) hlt
  rw [hread, andThen_next] at hemit
  refine ⟨?selected, fun hin hslot hahead => ?inside, fun hout => ?outside⟩
  case selected => rw [selected_txe, if_pos ((txInFrame_iff s).2 hlt)]
  case inside =>
    have hcpos := ((memRead_next_iff _ _ _ _).1 hslot).1
    have hwrite := (memWrite_next_iff .txbuf s.txCpos (fold slot ahead) (emitted b s) _).2 ⟨hcpos, rfl⟩
    have hlook := lookAhead_of_accumulates (s := emitted b s) ((accumulates_iff _ _).2 hin) hslot hahead
    refine ⟨_, hemit.trans (hlook.trans hwrite), rfl, fun a => ?_⟩
    split
    next ha =>
      rw [ha]
      exact memRead_memWrite_same hwrite
    next ha => exact memRead_memWrite_of_ne (s := emitted b s) hwrite (.inr ha)
  case outside => exact hemit.trans (lookAhead_of_not_accumulates (mt (accumulates_iff _ _).1 hout))

/-- An answer of EMIT has the byte that the index stood at in the data register. -/
theorem execIrqTxeEmit_tdr {s t : State} (h : execIrqTxeEmit s = .next t) :
    memGet s.txBuf s.txIndex = some t.tdr := by
  obtain ⟨-, hlt, -⟩ := execIrqTxeEmit_next h
  cases hreq : txeReq s with
  | false =>
    rw [execIrqTxeEmit_of_no_request hreq] at h
    cases h
  | true =>
    rw [execIrqTxeEmit_of_request hreq hlt, andThen_eq_next_iff] at h
    obtain ⟨b, hread, hlook⟩ := h
    rw [lookAhead_frame hlook]
    exact ((memRead_next_iff _ _ _ _).1 hread).2

/-- EMIT advances the index by one and writes neither the frame's length nor the slot's position. -/
theorem execIrqTxeEmit_registers {s t : State} (h : execIrqTxeEmit s = .next t) :
    t.txIndex = s.txIndex + 1 ∧ t.txLen = s.txLen ∧ t.txCpos = s.txCpos := by
  obtain ⟨-, -, b, hlook⟩ := execIrqTxeEmit_next h
  rw [lookAhead_frame hlook]
  exact ⟨rfl, rfl, rfl⟩

/-- From index `tx_len - 2` on the slot of a send in flight holds the checksum. -/
theorem SendInFlight.slot_eq_csum {p : Packet} {s : State} (h : SendInFlight p s)
    (hi : s.txLen ≤ s.txIndex + 2) :
    memGet s.txBuf s.txCpos = some (csum p.header p.size p.data) := by
  obtain ⟨hp, -, hlen, -, -, -, -, hslot, -⟩ := h
  rw [hslot, slotValue_of_complete hp (hlen ▸ hi)]

/-- Settles O38: EMIT leaves the send in flight, whose slot is the look-ahead sum and in the end the checksum;
the slot is complete when the index comes to it. -/
theorem lookAheadCompletesTheChecksum : Obligations.LookAheadCompletesTheChecksum := by
  intro p s t hfly h
  have hfly' := execIrqTxeEmit_sendInFlight hfly h
  obtain ⟨hindex, hlen, hcpos⟩ := execIrqTxeEmit_registers h
  have ⟨_, _, _, _, _, _, himage, hslot, _⟩ := hfly'
  refine ⟨hindex, hlen, hcpos, himage, hslot, hfly'.slot_eq_csum, fun hat => ?_⟩
  have ⟨_, _, _, hslotpos, _⟩ := hfly
  have hcomplete : s.txLen ≤ s.txIndex + 2 := by
    rw [hat, hslotpos, txCposOf]
    omega
  have hsent := execIrqTxeEmit_tdr h
  rw [hat, hfly.slot_eq_csum hcomplete] at hsent
  exact (Option.some.inj hsent).symm

/-! ## The order of the two parts -/

/-- A push changes nothing that reads neither `rawq` nor the event history. -/
theorem apply_pushIsr_of_blind {α : Type} (f : State → α)
    (hf : ∀ s q ns, f { s with rawq := q, notes := ns } = f s) (b : Byte) (s : State) :
    f (pushIsr b s) = f s := by
  rcases pushIsr_cases b s with ⟨-, h⟩ | ⟨-, h⟩
  · rw [h]
    exact hf s _ s.notes
  · rw [h]
    exact hf s s.rawq _

/-- A push commutes with an update of the state that neither reads nor writes `rawq` and the event history,
nor the capacity. -/
theorem apply_pushIsr_comm (f : State → State) (hparams : ∀ s, (f s).params = s.params)
    (hf : ∀ s q ns, f { s with rawq := q, notes := ns } = { f s with rawq := q, notes := ns })
    (b : Byte) (s : State) : f (pushIsr b s) = pushIsr b (f s) := by
  have hrawq : (f s).rawq = s.rawq := (congrArg State.rawq (hf s s.rawq s.notes) :)
  have hnotes : (f s).notes = s.notes := (congrArg State.notes (hf s s.rawq s.notes) :)
  have hfull : rawqFull (f s) = rawqFull s := by rw [rawqFull, rawqFull, hparams, hrawq]
  rw [pushIsr, pushIsr, hfull, note, note, hrawq, hnotes]
  split
  · exact (hf s s.rawq _).trans (by rw [← hrawq])
  · exact (hf s _ s.notes).trans (by rw [← hnotes])

theorem perform_txe_of_no_request {s : State} (h : txeReq s = false) :
    perform .txe s = .refused .noTxeRequest := by
  obtain ⟨-, -, -, -, -, -, htxe⟩ := illegalEventHoldsOrIsRefused s
  exact htxe h

theorem andThen_assoc {α β γ : Type} (o : Out α) (k : α → Out β) (l : β → Out γ) :
    andThen (andThen o k) l = andThen o fun a => andThen (k a) l := by
  cases o <;> rfl

section
variable (b : Byte) (s : State)

theorem pushIsr_txIndex : (pushIsr b s).txIndex = s.txIndex :=
  apply_pushIsr_of_blind State.txIndex (fun _ _ _ => rfl) b s

theorem pushIsr_txLen : (pushIsr b s).txLen = s.txLen :=
  apply_pushIsr_of_blind State.txLen (fun _ _ _ => rfl) b s

theorem pushIsr_txCpos : (pushIsr b s).txCpos = s.txCpos :=
  apply_pushIsr_of_blind State.txCpos (fun _ _ _ => rfl) b s

theorem txeReq_pushIsr : txeReq (pushIsr b s) = txeReq s :=
  apply_pushIsr_of_blind txeReq (fun _ _ _ => rfl) b s

theorem memRead_pushIsr (sp : Space) (a : Nat) : memRead sp a (pushIsr b s) = memRead sp a s :=
  apply_pushIsr_of_blind (memRead sp a)
    (fun _ _ _ => memRead_congr (by cases sp <;> rfl) (by cases sp <;> rfl)) b s

theorem emitted_pushIsr (v : Byte) : emitted v (pushIsr b s) = pushIsr b (emitted v s) :=
  apply_pushIsr_comm (emitted v) (fun _ => rfl) (fun _ _ _ => rfl) b s

theorem memWrite_txbuf_pushIsr (a : Nat) (v : Byte) :
    memWrite .txbuf a v (pushIsr b s) =
      andThen (memWrite .txbuf a v s) fun t => .next (pushIsr b t) := by
  have hsize : spaceSize (pushIsr b s) .txbuf = spaceSize s .txbuf :=
    apply_pushIsr_of_blind (spaceSize · .txbuf) (fun _ _ _ => rfl) b s
  have hput : setCells (pushIsr b s) .txbuf (memPut (cells (pushIsr b s) .txbuf) a v) =
      pushIsr b (setCells s .txbuf (memPut (cells s .txbuf) a v)) :=
    apply_pushIsr_comm (fun s => setCells s .txbuf (memPut (cells s .txbuf) a v)) (fun _ => rfl)
      (fun _ _ _ => rfl) b s
  rw [memWrite, memWrite, hsize, hput]
  split <;> rfl

theorem lookAhead_pushIsr :
    lookAhead (pushIsr b s) = andThen (lookAhead s) fun t => .next (pushIsr b t) := by
  rw [lookAhead, lookAhead, pushIsr_txIndex, pushIsr_txLen, pushIsr_txCpos]
  split
  · simp only [memRead_pushIsr, memWrite_txbuf_pushIsr, andThen_assoc]
  · rfl

theorem semGive_disabled_pushIsr :
    semGive { pushIsr b s with txeIe := false } = pushIsr b (semGive { s with txeIe := false }) :=
  apply_pushIsr_comm (fun s => semGive { s with txeIe := false }) (fun _ => rfl) (fun _ _ _ => rfl) b s

/-- The transmit part finds after a push what it finds before it, and what it writes the push leaves alone. -/
theorem perform_txe_pushIsr :
    perform .txe (pushIsr b s) = andThen (perform .txe s) fun t => .next (pushIsr b t) := by
  have hreq' := txeReq_pushIsr b s
  have hindex := pushIsr_txIndex b s
  have hlen := pushIsr_txLen b s
  cases hreq : txeReq s with
  | false =>
    rw [perform_txe_of_no_request hreq, perform_txe_of_no_request (hreq'.trans hreq), andThen_refused]
  | true =>
    rcases Nat.lt_or_ge s.txIndex s.txLen with hlt | hpast
    · have hlt' : (pushIsr b s).txIndex < (pushIsr b s).txLen := by rwa [hindex, hlen]
      rw [perform_txe_of_inFrame hlt, perform_txe_of_inFrame hlt', execIrqTxeEmit_of_request hreq hlt,
        execIrqTxeEmit_of_request (hreq'.trans hreq) hlt', memRead_pushIsr, hindex, andThen_assoc]
      simp only [emitted_pushIsr, lookAhead_pushIsr]
    · have hpast' : (pushIsr b s).txLen ≤ (pushIsr b s).txIndex := by rwa [hindex, hlen]
      rw [perform_txe_of_past hpast, perform_txe_of_past hpast', execIrqTxeDone_of_request hreq hpast,
        execIrqTxeDone_of_request (hreq'.trans hreq) hpast', andThen_next, semGive_disabled_pushIsr]

end

/-- Settles O15: the receive part is a push, and the transmit part commutes with it, stops included. -/
theorem handlerPartsCommute : Obligations.HandlerPartsCommute := by
  intro s b
  simp only [funext (perform_rx b), andThen_next]
  exact (perform_txe_pushIsr b s).symm

end Sys2Proof.Machine
end

section
/-! The link facade's own two calls (45_link_facade.md R220, R222): neither waits on the send, and each
hands its result to the caller through the record of results. -/

namespace Sys2Proof.Machine

/-- Neither the flag nor the state is consulted (R220). -/
theorem execLinkEnable_returns (flag : Bool) (s : State) :
    execLinkEnable flag s = .next (output .enableReturned s) := rfl

/-- Settles O19: LINK.ENABLE is selected by its event in every state, and adds a result only. -/
theorem enableReturnsSuccessAndWritesNothing : Obligations.EnableReturnsSuccessAndWritesNothing :=
  fun s flag => ⟨selected_enable flag s, execLinkEnable_returns flag s⟩

/-- Settles O20: LINK.RECV pops `pktq`, by whether a packet is queued or none. -/
theorem receiveReturnsTheOldestPacketOrHolds : Obligations.ReceiveReturnsTheOldestPacketOrHolds := by
  intro s
  refine ⟨selected_recv s, fun p q hq => ?packet, fun hempty => ?held⟩
  case packet => exact execLinkRecv_of_packet hq
  case held => exact execLinkRecv_of_empty hempty

end Sys2Proof.Machine
end

section
/-! The peripheral's line (60_exceptions.md R241): a shift needs a full data register and empties it. -/

namespace Sys2Proof.Machine

/-- Settles O21: PER.SHIFT is the `shift` event's operation, and answers by whether `tdr_full` is set. -/
theorem shiftMovesTheDataRegisterToTheLine : Obligations.ShiftMovesTheDataRegisterToTheLine := by
  intro s
  refine ⟨selected_shift s, fun hfull => ?full, fun hempty => ?empty⟩
  case full => exact execPerShift_of_full hfull
  case empty => exact execPerShift_of_empty hempty

end Sys2Proof.Machine
end
